-- ==== Sys2Proof/Word.lean ====
section
/-! DEFINITION. The word types of the block (spec/00_scope.md R11, R12): every value is an unsigned bit vector
of a stated width, bit 0 the least significant. -/

namespace Sys2Proof

/-- A 32-bit value: the register `R`, the polynomial, a table entry, a checksum, the `val` of a response
(spec/40_checksum_engine.md R90, spec/30_encoding.md R64). -/
abbrev Word := BitVec 32

/-- A message byte, the operand `imm8` (spec/30_encoding.md R61). -/
abbrev Byte := BitVec 8

/-- A command word `cw`, 12 bits (spec/30_encoding.md R60). -/
abbrev CommandWord := BitVec 12

/-- The operation code `op = cw[11:8]` (spec/30_encoding.md R60). -/
abbrev Opcode := BitVec 4

/-- The width of the register `KEY`, 17 bits, the least that holds 99999 (spec/10_state.md R22). -/
abbrev KeyWord := BitVec 17

end Sys2Proof
end

