-- ==== Sys2Proof/Config.lean ====
section
/-! DEFINITION. The constants of the hardware (spec/00_scope.md R8), its configuration constant `CRC_XOROUT` (R9), and the
parameters the spec leaves open (R10, spec/70_reset_and_hazards.md R191), which a model takes as arguments. -/

namespace Sys2Proof

/-- `POLY`, the reflected polynomial constant (spec/00_scope.md R8). -/
def poly : Word := 0xEDB88320#32

/-- `CRC_INIT`, the all-ones start value of `R` (spec/00_scope.md R8). -/
def crcInit : Word := 0xFFFFFFFF#32

/-- `KEY_MASK`, the XOR mask, zero-extended to 32 bits (spec/00_scope.md R8). -/
def keyMask : Word := 0x0000AAAA#32

/-- `KEY_ROLL`, the additive roll constant `0x14C1` (spec/00_scope.md R8). -/
def keyRoll : Nat := 5313

/-- `KEY_MOD`, the modulus (spec/00_scope.md R8). -/
def keyMod : Nat := 100000

/-- `MSG_LEN_KEY`, the length of the checksum input of a key derivation (spec/00_scope.md R8). -/
def msgLenKey : Nat := 8

/-- `SERIAL_LEN` (spec/00_scope.md R8). -/
def serialLen : Nat := 8

/-- `DATE_LEN` (spec/00_scope.md R8). -/
def dateLen : Nat := 4

/-- `TABLE_ENTRIES` (spec/00_scope.md R8). -/
def tableEntries : Nat := 256

/-- The configuration: the one constant that the spec asks a model to carry as a field and not to bake into the step
(spec/00_scope.md R9; conflict C1 of spec/90_conflicts.md). -/
structure Config where
  /-- `CRC_XOROUT`: what the register is XORed with on its way out. -/
  crcXorOut : Word
  deriving DecidableEq, Repr

/-- The configuration of this hardware: `CRC_XOROUT = 0xFFFFFFFF` (spec/00_scope.md R8, R9). UNSAFE against the real
repository (notes/assumptions/8.md). -/
def Config.hardware : Config := ⟨0xFFFFFFFF#32⟩

/-- The variant of conflict C1 (`CRC_XOROUT = 0x00000000`), which reproduces the document's literal 11253; no meaning
uses it (spec/00_scope.md R9, spec/93_implementation_defined.md U8). -/
def Config.withoutComplement : Config := ⟨0x00000000#32⟩

/-- `IMPL_FORM`: the three ways to build the byte step (spec/00_scope.md R10, spec/40_checksum_engine.md R86). -/
inductive ImplForm where
  /-- one bit step per clock, eight clocks -/
  | bitwiseSerial
  /-- eight copies of the bit step one after another -/
  | bitwiseUnrolled
  /-- the 256-entry table -/
  | table
  deriving DecidableEq, Repr

/-- `RST_POLARITY`: which level of `rst` asserts reset (spec/92_eei_decisions.md D3, spec/93_implementation_defined.md U17). -/
inductive ResetPolarity where
  /-- a 1 on `rst` asserts reset -/
  | activeHigh
  /-- a 0 on `rst` asserts reset -/
  | activeLow
  deriving DecidableEq, Repr

/-- `RST_SYNC`: whether `rst` is sampled by `clk` (spec/92_eei_decisions.md D3, spec/70_reset_and_hazards.md R191). -/
inductive ResetStyle where
  /-- reset acts at the clock edge -/
  | synchronous
  /-- reset acts as soon as it is asserted -/
  | asynchronous
  deriving DecidableEq, Repr

/-- FREE VALUE: whether a reset that has been asserted for fewer cycles than `RST_MIN_CYCLES` takes effect in a cycle. The
spec says neither; the argument numbers the cycles in which the question arises (notes/assumptions/19.md). -/
opaque Config.shortResetTakesEffect : Nat → Bool

/-- The parameters the spec leaves open (spec/00_scope.md R10; the last four before `nInstances` are those of
spec/92_eei_decisions.md D3).
`exec` and `step` take none of them; the port model, the forms of the byte step and a system of instances take them as an
argument, so that what is proved of these holds for every value. -/
structure OpenParameters where
  /-- `IMPL_FORM` -/
  implForm : ImplForm
  /-- `LAT_INIT`: clock cycles from acceptance of `INIT` to its response -/
  latInit : Nat
  /-- `LAT_BYTE` -/
  latByte : Nat
  /-- `LAT_FOLD` -/
  latFold : Nat
  /-- `LAT_READ`: of `RDCRC` and `RDKEY` -/
  latRead : Nat
  /-- clock cycles to the refusal of an illegal word. DESIGN CHOICE (notes/assumptions/12.md): R10 names no latency for it. -/
  latIllegal : Nat
  /-- `RST_POLARITY` -/
  rstPolarity : ResetPolarity
  /-- `RST_SYNC` -/
  rstSync : ResetStyle
  /-- `RST_MIN_CYCLES`: for how many cycles reset must be asserted to be sure to take effect -/
  rstMinCycles : Nat
  /-- `RSP_HOLD`: for how many cycles `rsp_valid` stays up -/
  rspHold : Nat
  /-- `N_INSTANCES` -/
  nInstances : Nat
  deriving DecidableEq, Repr

/-- The bounds the spec sets on the open parameters: each latency and the number of instances at least 1
(spec/00_scope.md R10); a reset lasts, and a response stays up, for at least one cycle. -/
abbrev OpenParameters.WellFormed (p : OpenParameters) : Prop :=
  1 ≤ p.latInit ∧ 1 ≤ p.latByte ∧ 1 ≤ p.latFold ∧ 1 ≤ p.latRead ∧ 1 ≤ p.latIllegal ∧ 1 ≤ p.rstMinCycles ∧
    1 ≤ p.rspHold ∧ 1 ≤ p.nInstances

end Sys2Proof
end

