-- ==== Sys2Proof/Syntax.lean ====
section
/-! DEFINITION. The commands of the block, the fields of a command word, and its responses
(spec/30_encoding.md R60, R62, R64; spec/60_exceptions.md R150). -/

namespace Sys2Proof

/-- The five commands, one constructor per row of spec/opcode_table.json (spec/30_encoding.md R62). The one operand there
is, `imm8` of `BYTE`, may have each of its 256 values (R83). -/
inductive Instr where
  /-- `INIT`: start a new message (R82) -/
  | init
  /-- `BYTE imm8`: absorb one message byte (R83) -/
  | byte (imm8 : Byte)
  /-- `FOLD`: fold the checksum into the key register (R103) -/
  | fold
  /-- `RDCRC`: read the checksum (R84) -/
  | rdcrc
  /-- `RDKEY`: read the stored key (R104) -/
  | rdkey
  deriving DecidableEq, Repr

/-- The two fields of format `C`, the only format (spec/30_encoding.md R60). -/
structure CommandFields where
  /-- `cw[11:8]` -/
  op : Opcode
  /-- `cw[7:0]` -/
  imm8 : Byte
  deriving DecidableEq, Repr

/-- The refusal codes, exactly three (spec/60_exceptions.md R150; spec/93_implementation_defined.md U13). -/
inductive RefusalCode where
  /-- code 1: `op` has no command assigned (R151) -/
  | illegalOpcode
  /-- code 2: `imm8` is not zero where it must be (R152) -/
  | illegalOperand
  /-- code 3: `RDKEY` while `KV = 0` (R153) -/
  | keyNotValid
  deriving DecidableEq, Repr

/-- What the decoder says of a command word: a command, or illegal with a code (spec/30_encoding.md R67). -/
inductive Decoded where
  /-- the word is this command -/
  | command (i : Instr)
  /-- the word is refused with this code -/
  | illegal (code : RefusalCode)
  deriving DecidableEq, Repr

/-- A response, the pair `(ok, val)` (spec/30_encoding.md R64). -/
structure Response where
  /-- `ok`, 1 bit: true when the command was accepted -/
  ok : Bool
  /-- `val`, 32 bits -/
  val : Word
  deriving DecidableEq, Repr

/-- The operand of a `BYTE` line of a listing: a number, or one character standing for its ASCII code
(spec/30_encoding.md R69). -/
inductive ByteOperand where
  /-- `0x00` to `0xFF`, or decimal 0 to 255 -/
  | number (n : Nat)
  /-- a character in single quotes -/
  | character (c : Char)
  deriving DecidableEq, Repr

/-- One line of a listing: a command, or a pseudo-command (spec/30_encoding.md R69, R70). The block knows none of the
pseudo-commands; Machine/Listing.lean expands them. -/
inductive Line where
  /-- `INIT` -/
  | init
  /-- `BYTE` with its operand -/
  | byte (x : ByteOperand)
  /-- `FOLD` -/
  | fold
  /-- `RDCRC` -/
  | rdcrc
  /-- `RDKEY` -/
  | rdkey
  /-- `MSG "text"` -/
  | msg (text : List Char)
  /-- `MSGX b0 b1 ...` -/
  | msgx (bytes : List Byte)
  /-- `CRC32 "text"` -/
  | crc32 (text : List Char)
  /-- `MKEY "mmdd", "ssssssss"` -/
  | mkey (date serial : List Char)
  deriving DecidableEq, Repr

end Sys2Proof
end

