-- ==== Sys2Proof/WellFormed.lean ====
section
/-! DEFINITION. Which fields make a command (spec/30_encoding.md R60, R62, R65). The types of Sys2Proof/Syntax.lean already
bound every operand of `Instr`; what can be ill-formed is the pair of fields of a word, and each check below refuses one
of the two kinds of R65. -/

namespace Sys2Proof

/-- Check 1: a command is assigned to `op` (spec/30_encoding.md R65 (a)). -/
def CommandFields.opAssigned (f : CommandFields) : Bool :=
  f.op == 0x1#4 || f.op == 0x2#4 || f.op == 0x3#4 || f.op == 0x4#4 || f.op == 0x5#4

/-- Check 2: `imm8` is zero for every defined operation but `BYTE` (spec/30_encoding.md R60, R65 (b)). -/
def CommandFields.operandLegal (f : CommandFields) : Bool :=
  f.op == 0x2#4 || f.imm8 == 0x00#8

/-- The fields of a command pass both checks (spec/30_encoding.md R65). -/
def CommandFields.wellFormed (f : CommandFields) : Bool :=
  f.opAssigned && f.operandLegal

/-- The fields that the encoding gives a command: the columns `op` and `imm8` of spec/30_encoding.md R62. -/
def Instr.fields : Instr → CommandFields
  | .init => ⟨0x1#4, 0x00#8⟩
  | .byte imm8 => ⟨0x2#4, imm8⟩
  | .fold => ⟨0x3#4, 0x00#8⟩
  | .rdcrc => ⟨0x4#4, 0x00#8⟩
  | .rdkey => ⟨0x5#4, 0x00#8⟩

/-- A command is well-formed when its fields are. Every command is (Laws/PerInstr.lean): its operand's type admits
exactly the legal values. -/
def Instr.wellFormed (i : Instr) : Bool :=
  i.fields.wellFormed

end Sys2Proof
end

