-- ==== Sys2Proof/Decode.lean ====
section
/-! DEFINITION. The decoder, total on all 4096 command words (spec/30_encoding.md R67), the opcode map of R62, and after
them the encoder. -/

namespace Sys2Proof

/-- `op = cw[11:8]` (spec/30_encoding.md R60). -/
def opField (cw : CommandWord) : Opcode :=
  cw.extractLsb' 8 4

/-- `imm8 = cw[7:0]`, taken as it is (spec/30_encoding.md R60, R61). -/
def imm8Field (cw : CommandWord) : Byte :=
  cw.extractLsb' 0 8

/-- Both fields of a command word (spec/30_encoding.md R60). -/
def commandFields (cw : CommandWord) : CommandFields :=
  ⟨opField cw, imm8Field cw⟩

/-- The decoding algorithm, in the order of spec/30_encoding.md R67: `BYTE`, then the operations whose `imm8` must be
zero, then everything else. -/
def decode (cw : CommandWord) : Decoded :=
  if opField cw = 0x2#4 then .command (.byte (imm8Field cw))
  else if opField cw = 0x1#4 then
    if imm8Field cw = 0x00#8 then .command .init else .illegal .illegalOperand
  else if opField cw = 0x3#4 then
    if imm8Field cw = 0x00#8 then .command .fold else .illegal .illegalOperand
  else if opField cw = 0x4#4 then
    if imm8Field cw = 0x00#8 then .command .rdcrc else .illegal .illegalOperand
  else if opField cw = 0x5#4 then
    if imm8Field cw = 0x00#8 then .command .rdkey else .illegal .illegalOperand
  else .illegal .illegalOpcode

/-- One row of the opcode map (spec/30_encoding.md R62): a word selects the row whose `pattern` equals `cw and mask`. -/
structure OpcodeRow where
  /-- the row's mnemonic -/
  mnemonic : String
  /-- the column `match` -/
  pattern : CommandWord
  /-- the column `mask` -/
  mask : CommandWord
  deriving DecidableEq, Repr

/-- The five rows of spec/30_encoding.md R62. -/
def opcodeRows : List OpcodeRow :=
  [ ⟨"INIT", 0x100#12, 0xFFF#12⟩,
    ⟨"BYTE", 0x200#12, 0xF00#12⟩,
    ⟨"FOLD", 0x300#12, 0xFFF#12⟩,
    ⟨"RDCRC", 0x400#12, 0xFFF#12⟩,
    ⟨"RDKEY", 0x500#12, 0xFFF#12⟩ ]

/-- A command word selects a row (spec/30_encoding.md R62). -/
def selectsRow (cw : CommandWord) (row : OpcodeRow) : Bool :=
  cw &&& row.mask == row.pattern

/-- The mnemonic of a command (spec/30_encoding.md R62). -/
def mnemonicOf : Instr → String
  | .init => "INIT"
  | .byte _ => "BYTE"
  | .fold => "FOLD"
  | .rdcrc => "RDCRC"
  | .rdkey => "RDKEY"

/-- The number of a refusal code (spec/60_exceptions.md R150). -/
def refusalNumber : RefusalCode → Word
  | .illegalOpcode => 0x00000001#32
  | .illegalOperand => 0x00000002#32
  | .keyNotValid => 0x00000003#32

/-- The command word that carries the two fields (spec/30_encoding.md R60). -/
def assembleFields (f : CommandFields) : CommandWord :=
  f.op ++ f.imm8

/-- The encoder: the command word of a command, from the columns of spec/30_encoding.md R62. A command is one word (R68). -/
def encode (i : Instr) : CommandWord :=
  assembleFields i.fields

/-- The number of an instruction's bits as the 12 wires of `cmd` carry it (spec/70_reset_and_hazards.md R191): `none` when
a bit above bit 11 is set, since no command word has one (notes/assumptions/10.md). -/
def commandWordOfTable (nbits w : Nat) : Option CommandWord :=
  if w % 2 ^ nbits < 4096 then some (BitVec.ofNat 12 (w % 2 ^ nbits)) else none

/-- The command that a decoded word is, if it is one. -/
def decodedCommand : Decoded → Option Instr
  | .command i => some i
  | .illegal _ => none

/-- What the decoder reads from the bits of a row of spec/opcode_table.json, numbered as the table numbers them. -/
def decodeTableWord (nbits w : Nat) : Option Instr :=
  match commandWordOfTable nbits w with
  | some cw => decodedCommand (decode cw)
  | none => none

end Sys2Proof
end

