-- ==== Sys2Proof/Machine/State.lean ====
section
/-! DEFINITION. The state of one block (spec/10_state.md R20) with the model's two fields around it: the host's coming
events and the responses delivered. Why a machine can stop: it cannot (spec/93_implementation_defined.md, section 2). -/

namespace Sys2Proof.Machine

/-- One interaction of the host with the block (spec/70_reset_and_hazards.md R195). Every interaction falls between two
commands (spec/20_memory.md R46, R49). -/
inductive HostEvent where
  /-- the host sends one command word and waits for its response (R48, R195) -/
  | command (cw : CommandWord)
  /-- the host asserts and releases reset between two commands (R180) -/
  | reset
  /-- the host sends a command word and reset is asserted before its response has been delivered (R186) -/
  | interrupted (cw : CommandWord)
  /-- the host sends nothing for a while (R195, third row) -/
  | idle
  deriving DecidableEq, Repr

/-- The state. `r`, `key` and `kv` are the whole architectural state (spec/10_state.md R20); `input` and `responses` are
the model's own (notes/assumptions/1.md, notes/assumptions/3.md). -/
structure State where
  /-- `R`, the working register (spec/10_state.md R21) -/
  r : Word
  /-- `KEY`, the master key register (spec/10_state.md R22) -/
  key : KeyWord
  /-- `KV`, the key-valid flag (spec/10_state.md R23) -/
  kv : Bool
  /-- the host's coming events, next first: a parameter of the run (spec/10_state.md R26, R37). The MODEL's field. -/
  input : List HostEvent
  /-- the responses delivered in the run, oldest first: the observable result of the run
  (spec/70_reset_and_hazards.md R194). The MODEL's field. -/
  responses : List Response
  deriving DecidableEq, Repr

/-- Why the machine stops with a fault: never. No behaviour of the spec has the treatment `fault` or `stuck`, and every
accepted command completes (spec/93_implementation_defined.md section 2; spec/70_reset_and_hazards.md R193), so the type
has no constructor and no step can answer a fault: safe (notes/assumptions/11.md). -/
inductive Fault where
  deriving DecidableEq, Repr

/-- Why an instruction has no meaning. A refusal OF THE BLOCK (spec/60_exceptions.md R150) is not one of these: it is a
response, and the machine goes on. -/
inductive Refusal where
  /-- raised by an arm of `exec` whose instruction is not modelled; no arm raises it, all five have their meaning. Safe:
  the machine would stop where the hardware goes on. -/
  | notModelled (mnemonic : String)
  deriving DecidableEq, Repr

/-- The machine right after reset: the table of spec/10_state.md R32, nothing offered by the host and nothing answered
(DESIGN CHOICE for the model's two fields: notes/assumptions/2.md, notes/assumptions/3.md). -/
def State.reset : State where
  r := 0xFFFFFFFF#32
  key := 0#17
  kv := false
  input := []
  responses := []

end Sys2Proof.Machine
end

