-- ==== Sys2Proof/Machine/Ops.lean ====
section
/-! DEFINITION. The named operations over the state: writing the registers, answering a command, refusing one (the block's
only exceptional outcome, spec/60_exceptions.md R150), reset, and the host's stream. -/

namespace Sys2Proof.Machine

/-- `R <- v` (spec/00_scope.md R14). -/
def writeR (v : Word) (s : State) : State :=
  { s with r := v }

/-- `KEY <- v` (spec/00_scope.md R14). -/
def writeKey (v : KeyWord) (s : State) : State :=
  { s with key := v }

/-- Deliver one response (spec/30_encoding.md R64). -/
def deliver (rsp : Response) (s : State) : State :=
  { s with responses := s.responses ++ [rsp] }

/-- `respond(v)`: the command is accepted; its response is `ok = 1, val = v` (spec/00_scope.md R15). -/
def respond (v : Word) (s : State) : State :=
  deliver ⟨true, v⟩ s

/-- The response of a refusal: `ok = 0, val = zext_32(code)` (spec/60_exceptions.md R150). -/
def refusalResponse (code : RefusalCode) : Response :=
  ⟨false, refusalNumber code⟩

/-- `raise Refused(code)`, the one exception primitive (spec/00_scope.md R15): it saves nothing, changes no register and no
flag, transfers control nowhere, and its whole effect is the response (spec/60_exceptions.md R157). There is no return
from it: the next command is accepted as after any other response (R158). -/
def refuse (code : RefusalCode) (s : State) : State :=
  deliver (refusalResponse code) s

/-- Reset of the block: the three registers take their reset values (spec/10_state.md R32,
spec/70_reset_and_hazards.md R180). The host's coming events and the responses already delivered are the run's, not the
block's, and stay (notes/assumptions/3.md). -/
def resetRegisters (s : State) : State :=
  { s with r := State.reset.r, key := State.reset.key, kv := State.reset.kv }

/-- Take the head off the host's coming events. -/
def dropEvent (s : State) : State :=
  { s with input := s.input.tail }

/-- The host's next interaction will be `e`, before all that were to come. -/
def offer (e : HostEvent) (s : State) : State :=
  { s with input := e :: s.input }

/-- Put the bits of an opcode-table row on the command port as the very next word; bits that the 12 wires cannot carry
make no command word and nothing is offered (notes/assumptions/10.md). -/
def offerTableWord (nbits w : Nat) (s : State) : State :=
  match commandWordOfTable nbits w with
  | some cw => offer (.command cw) s
  | none => s

end Sys2Proof.Machine
end

