-- ==== Sys2Proof/Machine/Operands.lean ====
section
/-! DEFINITION. The operand forms: the one operand going in (spec/30_encoding.md R61) and the two values coming out
(spec/20_memory.md R43, R45). The registers are implied by the operation (spec/30_encoding.md R60). -/

namespace Sys2Proof.Machine

/-- `zext_32(imm8)`: bit `i` of the byte becomes bit `i`, bits 31 to 8 are zero (spec/30_encoding.md R61). -/
def byteOperand (imm8 : Byte) : Word :=
  imm8.setWidth 32

/-- The checksum leaving the engine, `R xor CRC_XOROUT`, confined to 32 bits (spec/40_checksum_engine.md R84, R90). The
constant comes from the configuration (spec/00_scope.md R9). -/
def checksumOut (cfg : Config) (r : Word) : Word :=
  r ^^^ cfg.crcXorOut

/-- The key leaving the folding unit, `zext_32(KEY)` (spec/41_folding_unit.md R104). -/
def keyOut (key : KeyWord) : Word :=
  key.setWidth 32

/-- The byte of a character: its ASCII code; a character above 127 has none (spec/42_host_sequences.md R126;
spec/93_implementation_defined.md U22; notes/assumptions/15.md). -/
def asciiByte (c : Char) : Option Byte :=
  if c.toNat < 128 then some (BitVec.ofNat 8 c.toNat) else none

/-- The value of a listing's `BYTE` operand (spec/30_encoding.md R69): a number from 0 to 255, or a character's code. -/
def byteOperandValue : ByteOperand → Option Byte
  | .number n => if n < 256 then some (BitVec.ofNat 8 n) else none
  | .character c => asciiByte c

end Sys2Proof.Machine
end

