-- ==== Sys2Proof/Machine/ChecksumEngine.lean ====
section
/-! DEFINITION. The commands of the Checksum Engine: `INIT`, `BYTE`, `RDCRC` (spec/40_checksum_engine.md R82 to R84). None
can fail once decoded (spec/60_exceptions.md R154). -/

namespace Sys2Proof.Machine

/-- `INIT` (spec/40_checksum_engine.md R82): `R <- CRC_INIT`; `KEY` and `KV` are not changed. -/
def execInit (s : State) : Host.Outcome State Fault Refusal :=
  .next (respond 0x00000000#32 (writeR crcInit s))

/-- `BYTE imm8` (spec/40_checksum_engine.md R83): `R <- absorb(R, imm8)`. -/
def execByte (imm8 : Byte) (s : State) : Host.Outcome State Fault Refusal :=
  .next (respond 0x00000000#32 (writeR (absorb s.r imm8) s))

/-- `RDCRC` (spec/40_checksum_engine.md R84): the complement is applied to the output only, never fed back. -/
def execRdcrc (s : State) : Host.Outcome State Fault Refusal :=
  .next (respond (checksumOut Config.hardware s.r) s)

end Sys2Proof.Machine
end

