-- ==== Sys2Proof/Machine/Flags.lean ====
section
/-! DEFINITION. The flags: `KV` is the only one held as state (spec/10_state.md R27). There are no condition codes, no
carry or overflow flag and no sticky error flag; the bit `ok` of a response is computed per command (R27). -/

namespace Sys2Proof.Machine

/-- `KV = 1`: a `FOLD` has executed since reset (spec/10_state.md R23). -/
def keyValid (s : State) : Bool :=
  s.kv

/-- `KV <- 1`, written by `FOLD` only; cleared by `resetRegisters` only (spec/10_state.md R23). -/
def setKeyValid (s : State) : State :=
  { s with kv := true }

end Sys2Proof.Machine
end

