-- ==== Sys2Proof/Machine/Fold.lean ====
section
/-! DEFINITION. The function of the folding unit, in the three steps of spec/41_folding_unit.md R100: XOR, exact
addition, reduction. -/

namespace Sys2Proof.Machine

/-- `x = c xor 0x0000AAAA` (spec/41_folding_unit.md R100). -/
def foldMask (c : Word) : Word :=
  c ^^^ keyMask

/-- `s = val(x) + 5313`, an exact integer sum, not reduced modulo 2^32 (spec/41_folding_unit.md R100, R101). -/
def foldSum (c : Word) : Nat :=
  (foldMask c).toNat + keyRoll

/-- `fold(c) = s mod 100000` as a 17-bit value (spec/41_folding_unit.md R100). -/
def foldKey (c : Word) : KeyWord :=
  BitVec.ofNat 17 (foldSum c % keyMod)

end Sys2Proof.Machine
end

