-- ==== Sys2Proof/Machine/FoldingUnit.lean ====
section
/-! DEFINITION. The commands of the folding unit: `FOLD`, `RDKEY` (spec/41_folding_unit.md R103, R104). -/

namespace Sys2Proof.Machine

/-- `FOLD` (spec/41_folding_unit.md R103): folds the checksum `RDCRC` would return; `R` is not changed. -/
def execFold (s : State) : Host.Outcome State Fault Refusal :=
  .next (respond 0x00000000#32 (setKeyValid (writeKey (foldKey (checksumOut Config.hardware s.r)) s)))

/-- `RDKEY` (spec/41_folding_unit.md R104): refused with code 3 while `KV = 0` (spec/60_exceptions.md R153), else the
stored key; it writes nothing. -/
def execRdkey (s : State) : Host.Outcome State Fault Refusal :=
  if keyValid s then .next (respond (keyOut s.key) s) else .next (refuse .keyNotValid s)

end Sys2Proof.Machine
end

