-- ==== Sys2Proof/Machine/Dispatch.lean ====
section
/-! DEFINITION. The meaning of each command, one arm per row of spec/30_encoding.md R62. -/

namespace Sys2Proof.Machine

def exec (i : Instr) (s : State) : Host.Outcome State Fault Refusal :=
  match i with
  | .init => Sys2Proof.Machine.execInit s
  | .byte imm8 => Sys2Proof.Machine.execByte imm8 s
  | .fold => Sys2Proof.Machine.execFold s
  | .rdcrc => Sys2Proof.Machine.execRdcrc s
  | .rdkey => Sys2Proof.Machine.execRdkey s

end Sys2Proof.Machine
end

