-- ==== Sys2Proof/Machine/Events.lean ====
section
/-! DEFINITION. What one interaction of the host does to the block (spec/70_reset_and_hazards.md R195): a command word,
a reset, a reset that cuts a command short, or nothing. -/

namespace Sys2Proof.Machine

/-- A command word on the port: the command it decodes to is executed, an illegal word is refused; every word gets its
response (spec/30_encoding.md R65, R67; spec/60_exceptions.md R155). -/
def acceptWord (cw : CommandWord) (s : State) : Host.Outcome State Fault Refusal :=
  match decode cw with
  | .command i => exec i s
  | .illegal code => .next (refuse code s)

/-- One interaction. A command cut short by reset delivers no response and none of its writes survive
(spec/70_reset_and_hazards.md R186); idleness changes no state (R195). -/
def takeEvent (e : HostEvent) (s : State) : Host.Outcome State Fault Refusal :=
  match e with
  | .command cw => acceptWord cw s
  | .reset => .next (resetRegisters s)
  | .interrupted _ => .next (resetRegisters s)
  | .idle => .next s

/-- Take the host's next interaction off the stream and carry it out; with none left the block is idle and holds its
registers (spec/60_exceptions.md R169, spec/70_reset_and_hazards.md R194). -/
def advance (s : State) : Host.Outcome State Fault Refusal :=
  match s.input with
  | [] => .next s
  | e :: _ => takeEvent e (dropEvent s)

end Sys2Proof.Machine
end

