-- ==== Sys2Proof/Machine/Step.lean ====
section
/-! DEFINITION. One step of the machine: one interaction of the host (spec/20_memory.md R48, R49). -/

namespace Sys2Proof.Machine

/-- One step: the host's next interaction, whole (spec/20_memory.md R46). -/
def step (s : State) : Host.Outcome State Fault Refusal :=
  advance s

/-- The bits of an opcode-table row offered as the very next command word (notes/assumptions/2.md). -/
def State.withFetchWord (s : State) (nbits w : Nat) : State :=
  offerTableWord nbits w s

end Sys2Proof.Machine
end

