-- ==== Sys2Proof/Machine/Listing.lean ====
section
/-! DEFINITION. Listings and the pseudo-commands (spec/30_encoding.md R69, R70), shorthand of the spec: the block knows none
of them. A line that has a character without an ASCII code, or a number above 255, has no expansion. -/

namespace Sys2Proof.Machine

/-- The bytes of a text, first character first (spec/20_memory.md R41, spec/42_host_sequences.md R126); none when a
character has no ASCII code (spec/93_implementation_defined.md U22). -/
def asciiBytes : List Char → Option (List Byte)
  | [] => some []
  | c :: cs =>
    match asciiByte c, asciiBytes cs with
    | some b, some bs => some (b :: bs)
    | _, _ => none

/-- `MSGX b0 b1 ...`: one `BYTE` per byte, in order (spec/30_encoding.md R70). -/
def expandMsgx (bytes : List Byte) : List Instr :=
  bytes.map Instr.byte

/-- `MSG "text"` (spec/30_encoding.md R70). -/
def expandMsg (text : List Char) : Option (List Instr) :=
  (asciiBytes text).map expandMsgx

/-- `serialNumber[4:8]`: the characters at positions 4, 5, 6 and 7 (spec/42_host_sequences.md R125; conflict C4). -/
def serialTail (serial : List Char) : List Char :=
  (serial.drop 4).take 4

/-- The expansion of one line (spec/30_encoding.md R69, R70). DESIGN CHOICE (notes/assumptions/18.md): R70 defines `MKEY` for
a date of 4 and a serial number of 8 digits, both already validated, and says nothing of other arguments; the model
expands such a line by the same formula and checks nothing. -/
def expandLine : Line → Option (List Instr)
  | .init => some [.init]
  | .byte x => (byteOperandValue x).map fun b => [.byte b]
  | .fold => some [.fold]
  | .rdcrc => some [.rdcrc]
  | .rdkey => some [.rdkey]
  | .msg text => expandMsg text
  | .msgx bytes => some (expandMsgx bytes)
  | .crc32 text => (expandMsg text).map fun is => .init :: is ++ [.rdcrc]
  | .mkey date serial => (expandMsg (date ++ serialTail serial)).map fun is => .init :: is ++ [.fold, .rdkey]

/-- The command words of a listing, in order. -/
def assembleListing : List Line → Option (List CommandWord)
  | [] => some []
  | l :: ls =>
    match expandLine l, assembleListing ls with
    | some is, some ws => some (is.map encode ++ ws)
    | _, _ => none

end Sys2Proof.Machine
end

