-- ==== Sys2Proof/Machine/HostProcedures.lean ====
section
/-! DEFINITION. The host procedures (spec/42_host_sequences.md): validation, message assembly and the command sequences
that drive the block. They are duties of the host, not hardware (spec/00_scope.md R5), and run over `issue`. -/

namespace Sys2Proof.Machine

/-- `issue(cw)`: send one command word and wait for its response (spec/00_scope.md R16). A step always answers a next
state and a command always a response, so `none` is never the answer (notes/assumptions/16.md). -/
def issue (cw : CommandWord) (s : State) : Option (State × Response) :=
  match step (offer (.command cw) s) with
  | .next t => t.responses.getLast?.map fun rsp => (t, rsp)
  | .fault _ => none
  | .refused _ => none

/-- Issue `BYTE` for each byte of a message, in order (spec/42_host_sequences.md R127, R128). -/
def issueBytes : List Byte → State → Option State
  | [], s => some s
  | b :: bs, s => (issue (encode (.byte b)) s).bind fun x => issueBytes bs x.1

/-- `CRC32(m)`: `INIT`, the bytes, `RDCRC`; the result is `val` (spec/42_host_sequences.md R128). -/
def hostCrc32 (m : List Byte) (s : State) : Option (State × Word) :=
  (issue 0x100#12 s).bind fun x =>
    (issueBytes m x.1).bind fun t =>
      (issue 0x400#12 t).map fun y => (y.1, y.2.val)

/-- `MKEY(msg)` over the bytes of the message: `INIT`, the bytes, `FOLD`, `RDKEY`; the result is `val`
(spec/42_host_sequences.md R127). DESIGN CHOICE (notes/assumptions/18.md): R127 defines it for 8 digits; the model sends a
message of any bytes and any length in the same way. -/
def hostMkeyBytes (m : List Byte) (s : State) : Option (State × Word) :=
  (issue 0x100#12 s).bind fun x =>
    (issueBytes m x.1).bind fun t =>
      (issue 0x300#12 t).bind fun y =>
        (issue 0x500#12 y.1).map fun z => (z.1, z.2.val)

/-- `MKEY(msg)` over characters (spec/42_host_sequences.md R126, R127), for any message (notes/assumptions/18.md). -/
def hostMkey (msg : List Char) (s : State) : Option (State × Word) :=
  (asciiBytes msg).bind fun m => hostMkeyBytes m s

/-- The accessor: a read of the stored key (spec/42_host_sequences.md R129). -/
def hostAccessor (s : State) : Option (State × Response) :=
  issue 0x500#12 s

/-- The digit alphabet "0123456789" (spec/42_host_sequences.md R121). -/
def digitAlphabet : List Char :=
  ['0', '1', '2', '3', '4', '5', '6', '7', '8', '9']

/-- Every character is one of the ten digits (spec/42_host_sequences.md R121). -/
def allDigits (text : List Char) : Bool :=
  text.all fun c => digitAlphabet.contains c

/-- `validSerial(s)` (spec/42_host_sequences.md R121). -/
def validSerial (serial : List Char) : Bool :=
  serial.length == serialLen && allDigits serial

/-- `validDate(d)` of `month ++ day` (spec/42_host_sequences.md R122); no range check (R123). -/
def validDate (date : List Char) : Bool :=
  date.length == dateLen && allDigits date

/-- The checksum input `date ++ serialNumber[4:8]` (spec/42_host_sequences.md R125). -/
def keyMessage (date serial : List Char) : List Char :=
  date ++ serialTail serial

/-- How `DERIVE` ends (spec/42_host_sequences.md R120, R131): with a key, or with one of the two validation errors, which
carry no code and no value (spec/60_exceptions.md R160, R161). -/
inductive DeriveResult where
  /-- the key, as `RDKEY` delivered it -/
  | key (val : Word)
  /-- `fail InvalidSerialNumber` (spec/60_exceptions.md R160) -/
  | invalidSerialNumber
  /-- `fail InvalidDate` (spec/60_exceptions.md R161) -/
  | invalidDate
  deriving DecidableEq, Repr

/-- `DERIVE(serialNumber, month, day)`: serial number first, then the date, then the message and `MKEY`; a failed validation
issues no command (spec/42_host_sequences.md R120, R124). -/
def deriveMasterKey (serial month day : List Char) (s : State) : Option (State × DeriveResult) :=
  if !validSerial serial then some (s, .invalidSerialNumber)
  else if !validDate (month ++ day) then some (s, .invalidDate)
  else (hostMkey (keyMessage (month ++ day) serial) s).map fun x => (x.1, .key x.2)

/-- The eleven command words of `MKEY` over the bytes of its message (spec/42_host_sequences.md R127). -/
def mkeyWords (m : List Byte) : List CommandWord :=
  0x100#12 :: m.map (fun b => encode (.byte b)) ++ [0x300#12, 0x500#12]

/-- One derivation on its way, the document's Key Deriver (spec/10_state.md R36): it lives in the host, not in the block.
Its stages are DEDUCED from R36 and spec/42_host_sequences.md R120, R127 (notes/assumptions/20.md). -/
inductive Derivation where
  /-- the input strings are held; nothing has been validated -/
  | held (serial month day : List Char)
  /-- validation has passed: the command words still to be issued, and whether the derivation's own `FOLD` has executed -/
  | issuing (todo : List CommandWord) (folded : Bool)
  /-- `DERIVE` has ended -/
  | ended (result : DeriveResult)
  deriving DecidableEq, Repr

/-- The three states of a derivation (spec/10_state.md R36). -/
inductive DerivationState where
  /-- its `FOLD` has not executed -/
  | unvalidated
  /-- its `FOLD` has executed; terminal -/
  | derived
  /-- a validation error has been surfaced; terminal -/
  | rejected
  deriving DecidableEq, Repr

/-- A derivation is `Unvalidated` until its `FOLD` has executed and `Derived` after; `Rejected` once its validation has
failed (spec/10_state.md R36). -/
def derivationState : Derivation → DerivationState
  | .held _ _ _ => .unvalidated
  | .issuing _ folded => if folded then .derived else .unvalidated
  | .ended (.key _) => .derived
  | .ended .invalidSerialNumber => .rejected
  | .ended .invalidDate => .rejected

/-- Validation and message assembly, before any command is issued (spec/42_host_sequences.md R120, R125). A character
without an ASCII code cannot be left after validation. -/
def validateDerivation (serial month day : List Char) : Option Derivation :=
  if !validSerial serial then some (.ended .invalidSerialNumber)
  else if !validDate (month ++ day) then some (.ended .invalidDate)
  else (asciiBytes (keyMessage (month ++ day) serial)).map fun m => .issuing (mkeyWords m) false

/-- One stage of a derivation: validate, or issue the next command word; the response to the last word is the key. A
derivation that has ended stays as it is (spec/10_state.md R36: "both terminal"). -/
def advanceDerivation (d : Derivation) (s : State) : Option (Derivation × State) :=
  match d with
  | .held serial month day => (validateDerivation serial month day).map fun d' => (d', s)
  | .issuing [] folded => some (.issuing [] folded, s)
  | .issuing [cw] _ => (issue cw s).map fun x => (.ended (.key x.2.val), x.1)
  | .issuing (cw :: cw' :: rest) folded =>
    (issue cw s).map fun x => (.issuing (cw' :: rest) (folded || decode cw == .command .fold), x.1)
  | .ended result => some (.ended result, s)

/-- `n` stages of a derivation. -/
def runDerivation : Nat → Derivation → State → Option (Derivation × State)
  | 0, d, s => some (d, s)
  | n + 1, d, s => (advanceDerivation d s).bind fun x => runDerivation n x.1 x.2

/-- `DERIVE` on strings. -/
def deriveMasterKeyOfStrings (serial month day : String) (s : State) : Option (State × DeriveResult) :=
  deriveMasterKey serial.toList month.toList day.toList s

end Sys2Proof.Machine
end

