-- ==== Sys2Proof/Machine/Ports.lean ====
section
/-! DEFINITION. The block at its ports (spec/70_reset_and_hazards.md R191), clock by clock: the valid/ready hand-shake, a
command in progress for the latency of R192, the response, reset during a command (R186). It is a second, finer model
around the command-level one; `step` does not use it. Everything it fixes beyond R191 is in notes/assumptions/12.md and,
for the reset port, notes/assumptions/19.md. -/

namespace Sys2Proof.Machine

/-- The levels on the input ports in one clock cycle (spec/70_reset_and_hazards.md R191). -/
structure InputPins where
  /-- `rst`, the level on the wire -/
  rst : Bool
  /-- `cmd_valid` -/
  cmdValid : Bool
  /-- `cmd` -/
  cmd : CommandWord
  deriving DecidableEq, Repr

/-- The input ports in one clock cycle with the level of `rst` read by its polarity: `rst` is true when reset is
asserted. -/
structure PortIn where
  /-- reset is asserted in this cycle -/
  rst : Bool
  /-- `cmd_valid` -/
  cmdValid : Bool
  /-- `cmd` -/
  cmd : CommandWord
  deriving DecidableEq, Repr

/-- Whether a level on `rst` asserts reset (`RST_POLARITY`, spec/92_eei_decisions.md D3). -/
def assertsReset : ResetPolarity → Bool → Bool
  | .activeHigh, level => level
  | .activeLow, level => !level

/-- The input ports read by the block with the open parameters `p`. -/
def readPins (p : OpenParameters) (x : InputPins) : PortIn :=
  ⟨assertsReset p.rstPolarity x.rst, x.cmdValid, x.cmd⟩

/-- The output ports in one clock cycle (spec/70_reset_and_hazards.md R191). -/
structure PortOut where
  /-- `cmd_ready` -/
  cmdReady : Bool
  /-- `rsp_valid` -/
  rspValid : Bool
  /-- `rsp_ok` -/
  rspOk : Bool
  /-- `rsp_val` -/
  rspVal : Word
  deriving DecidableEq, Repr

/-- Where the block is with the command in hand: the hidden state of spec/10_state.md R31 (c). -/
inductive Phase where
  /-- ready for a command word -/
  | idle
  /-- a word has been accepted; its response comes in `left + 1` clocks -/
  | executing (cw : CommandWord) (left : Nat)
  /-- the command has been worked out and its response goes on the ports in this cycle for the first time; the response has
  not been delivered yet -/
  | delivering (cw : CommandWord)
  /-- the response has been delivered and stays on the ports, for `left` more clocks after this one -/
  | presenting (rsp : Response) (left : Nat)
  deriving DecidableEq, Repr

/-- The block at port level: its registers and the responses it has delivered (as a command-level state whose `input` is
not used), the phase, and two counts of the port model's own (notes/assumptions/19.md). -/
structure PortState where
  /-- registers and delivered responses -/
  block : State
  /-- the command in hand -/
  phase : Phase
  /-- for how many cycles in a row reset has been asserted so far; the MODEL's field -/
  rstHeld : Nat
  /-- how many cycles with reset asserted there have been, which numbers the free value; the MODEL's field -/
  rstSeen : Nat
  deriving DecidableEq, Repr

/-- The port-level block right after reset (the two counts at 0: DESIGN CHOICE, notes/assumptions/19.md). -/
def portReset : PortState :=
  ⟨State.reset, .idle, 0, 0⟩

/-- Clock cycles from acceptance of a word to its response (spec/00_scope.md R10). DESIGN CHOICE (notes/assumptions/12.md):
every `BYTE` takes the same `latByte`; spec/70_reset_and_hazards.md R184 lets the first `BYTE` of a table built lazily take
longer, which this model does not show. -/
def latency (p : OpenParameters) (cw : CommandWord) : Nat :=
  match decode cw with
  | .command .init => p.latInit
  | .command (.byte _) => p.latByte
  | .command .fold => p.latFold
  | .command .rdcrc => p.latRead
  | .command .rdkey => p.latRead
  | .illegal _ => p.latIllegal

/-- The output ports with a response on them. -/
def responseOut (rsp : Response) : PortOut :=
  ⟨false, true, rsp.ok, rsp.val⟩

/-- The output ports of a block that is not ready and has no response on them. `rsp_ok` and `rsp_val` are 0 then: DESIGN
CHOICE (notes/assumptions/12.md). -/
def quietOut : PortOut :=
  ⟨false, false, false, 0#32⟩

/-- What the phase drives on the output ports: ready only when idle, so that `cmd_ready` is 0 until the response has been
presented (spec/70_reset_and_hazards.md R191). A command always has a response, so `none` never shows
(notes/assumptions/16.md). -/
def portOut (s : PortState) : PortOut :=
  match s.phase with
  | .idle => { quietOut with cmdReady := true }
  | .executing _ _ => quietOut
  | .delivering cw => ((issue cw s.block).map fun x => responseOut x.2).getD quietOut
  | .presenting rsp _ => responseOut rsp

/-- Whether a reset asserted in this cycle takes effect: surely once it has lasted `RST_MIN_CYCLES`, and before that as the
free value says (notes/assumptions/19.md). -/
def resetTakesEffect (p : OpenParameters) (s : PortState) : Bool :=
  decide (p.rstMinCycles ≤ s.rstHeld + 1) || Config.shortResetTakesEffect s.rstSeen

/-- The output ports in a cycle with the inputs `i`. While reset is asserted no word is accepted, so `cmd_ready` is 0; an
asynchronous reset takes the response off the ports in the very cycle in which it takes effect, a synchronous one at the
edge that ends it (`RST_SYNC`; DESIGN CHOICE, notes/assumptions/19.md). -/
def portOutIn (p : OpenParameters) (i : PortIn) (s : PortState) : PortOut :=
  if i.rst then
    match p.rstSync with
    | .synchronous => { portOut s with cmdReady := false }
    | .asynchronous =>
      if resetTakesEffect p s then quietOut else { portOut s with cmdReady := false }
  else portOut s

/-- Deliver the response that is on the ports in this cycle for the first time: the command completes, whole
(spec/20_memory.md R46). One that an asynchronous reset takes off the ports in that cycle is not delivered, and its command
is lost to the reset (spec/70_reset_and_hazards.md R186). DESIGN CHOICE (notes/assumptions/12.md): a response counts as
delivered at the edge that ends the first cycle in which `rsp_valid` is 1, also when a synchronous reset, or a reset that
does not take effect, is asserted in that cycle; R186, R191 and spec/20_memory.md R49 fix no cycle. -/
def deliverPresented (p : OpenParameters) (i : PortIn) (s : PortState) : PortState :=
  match s.phase with
  | .delivering cw =>
    match issue cw s.block with
    | some (t, rsp) =>
      if (portOutIn p i s).rspValid then { s with block := t, phase := .presenting rsp (p.rspHold - 1) } else s
    | none => s
  | .idle => s
  | .executing _ _ => s
  | .presenting _ _ => s

/-- The command in hand with `n` more clocks to go: at 0 its response goes on the ports. -/
def countDown (cw : CommandWord) : Nat → Phase
  | n + 1 => .executing cw n
  | 0 => .delivering cw

/-- What an edge without reset does to the phase: a word is accepted only in a cycle where `cmd_valid` and `cmd_ready` are
both 1 (spec/70_reset_and_hazards.md R191), and a response stays up for `RSP_HOLD` cycles. The response of a block that
is delivering has been delivered before (`deliverPresented`). -/
def phaseEdge (p : OpenParameters) (i : PortIn) : Phase → Phase
  | .idle => if i.cmdValid then countDown i.cmd (latency p i.cmd - 1) else .idle
  | .executing cw n => countDown cw n
  | .delivering cw => .delivering cw
  | .presenting rsp (n + 1) => .presenting rsp n
  | .presenting _ 0 => .idle

/-- What an edge with reset asserted does: a reset that takes effect wins over everything and abandons the command in hand
(spec/70_reset_and_hazards.md R186); until it does, the block holds still (notes/assumptions/19.md). DESIGN CHOICE
(notes/assumptions/12.md): after it the block is ready in the very next cycle without reset, where R193 only says after
finitely many. -/
def resetEdge (p : OpenParameters) (s : PortState) : PortState :=
  if resetTakesEffect p s then ⟨resetRegisters s.block, .idle, s.rstHeld + 1, s.rstSeen + 1⟩
  else ⟨s.block, s.phase, s.rstHeld + 1, s.rstSeen + 1⟩

/-- An edge without reset. -/
def runEdge (p : OpenParameters) (i : PortIn) (s : PortState) : PortState :=
  ⟨s.block, phaseEdge p i s.phase, 0, s.rstSeen⟩

/-- One clock edge: a response that has been on the ports is delivered, then reset wins over all else
(spec/70_reset_and_hazards.md R186). DESIGN CHOICE (notes/assumptions/12.md): how soon after reset, and after a response,
the block is ready. -/
def clockEdge (p : OpenParameters) (i : PortIn) (s : PortState) : PortState :=
  if i.rst then resetEdge p (deliverPresented p i s) else runEdge p i (deliverPresented p i s)

/-- The clock edges of a sequence of input cycles, first cycle first. -/
def clockRun (p : OpenParameters) : List PortIn → PortState → PortState
  | [], s => s
  | i :: is, s => clockRun p is (clockEdge p i s)

/-- The clock edges of a sequence of levels on the input ports. -/
def pinRun (p : OpenParameters) (xs : List InputPins) (s : PortState) : PortState :=
  clockRun p (xs.map (readPins p)) s

/-- The command whose response is on the ports in this cycle for the first time: it completes at the edge that ends the
cycle (`deliverPresented`). -/
def deliveryEvents (p : OpenParameters) (i : PortIn) (s : PortState) : List HostEvent :=
  match s.phase with
  | .delivering cw => if (portOutIn p i s).rspValid then [.command cw] else []
  | .idle => []
  | .executing _ _ => []
  | .presenting _ _ => []

/-- What a reset that takes effect is to the command in hand (spec/70_reset_and_hazards.md R186): it cuts short a command
whose response has not been delivered, and is a plain reset otherwise. -/
def resetEvent : Phase → HostEvent
  | .idle => .reset
  | .executing cw _ => .interrupted cw
  | .delivering cw => .interrupted cw
  | .presenting _ _ => .reset

/-- The command-level interactions that one clock edge completes: first a command whose response has been on the ports in
the cycle, then reset. So a reset in the first cycle of a response is a reset of the command in hand where it takes the
response off the ports (asynchronous), and a plain reset after the command where the response was on them. DESIGN CHOICE
(notes/assumptions/12.md): a response counts as delivered at the edge that ends its first cycle on the ports, so a reset
later in a hold of several cycles is a plain reset too and the response stays in the record of the run;
spec/70_reset_and_hazards.md R186 and R191 and spec/20_memory.md R49 fix no cycle. -/
def edgeEvents (p : OpenParameters) (i : PortIn) (s : PortState) : List HostEvent :=
  deliveryEvents p i s ++
    if i.rst && resetTakesEffect p s then [resetEvent (deliverPresented p i s).phase] else []

/-- The command-level interactions that a sequence of input cycles completes, in order. -/
def portEvents (p : OpenParameters) : List PortIn → PortState → List HostEvent
  | [], _ => []
  | i :: is, s => edgeEvents p i s ++ portEvents p is (clockEdge p i s)

end Sys2Proof.Machine
end

