-- ==== Sys2Proof/Machine/System.lean ====
section
/-! DEFINITION. Several instances of the block (spec/20_memory.md R54, spec/60_exceptions.md R170): each has its own
registers and its own command stream, they share constants only, and each starts from its own reset. -/

namespace Sys2Proof.Machine

/-- One step of instance `k` of a system. Commands sent to different instances are unordered, so any instance may move
next; `none` when there is no instance `k`. -/
def stepInstance (k : Nat) (sys : List State) : Option (List State) :=
  match sys[k]? with
  | none => none
  | some s =>
    match step s with
    | .next t => some (sys.set k t)
    | .fault _ => none
    | .refused _ => none

/-- A system of `N_INSTANCES` instances after each one's reset (spec/00_scope.md R10, spec/60_exceptions.md R170). -/
def systemReset (p : OpenParameters) : List State :=
  List.replicate p.nInstances State.reset

end Sys2Proof.Machine
end

