-- ==== Sys2Proof/Safety.lean ====
section
/-! DEFINITION. What a safe run is, in the terms the claims use: the invariants of the state (spec/10_state.md R33, R34) and
the ghost message that follows a run (R34; not hardware). -/

namespace Sys2Proof.Machine

/-- `val(KEY) <= 99999`, and no key is stored before a `FOLD` (spec/10_state.md R23, R32, R33). -/
abbrev KeyInRange (s : State) : Prop :=
  s.key.toNat ≤ 99999 ∧ (s.kv = false → s.key = 0#17)

/-- The three registers of the block are the same in both states (spec/10_state.md R20). -/
abbrev SameRegisters (s t : State) : Prop :=
  s.r = t.r ∧ s.key = t.key ∧ s.kv = t.kv

/-- A run to the end of the host's coming events (spec/70_reset_and_hazards.md R194). -/
abbrev runAll (s : State) : Host.Outcome State Fault Refusal :=
  Host.Core.run Sys2Proof.core s.input.length s

/-- The ghost state of spec/10_state.md R34. -/
structure Ghost where
  /-- `MSG`: the bytes absorbed since the most recent `INIT` or reset, oldest first -/
  msg : List Byte
  /-- `KMSG`: what `MSG` was when the most recent `FOLD` executed, if one has since reset -/
  kmsg : Option (List Byte)
  deriving DecidableEq, Repr

/-- No message and no key: after reset (spec/10_state.md R34). -/
def Ghost.empty : Ghost :=
  ⟨[], none⟩

/-- How a command changes the ghost (spec/10_state.md R34): `INIT` empties `MSG`, `BYTE` appends, `FOLD` records. -/
def Ghost.afterCommand (g : Ghost) : Instr → Ghost
  | .init => { g with msg := [] }
  | .byte b => { g with msg := g.msg ++ [b] }
  | .fold => { g with kmsg := some g.msg }
  | .rdcrc => g
  | .rdkey => g

/-- How an interaction changes the ghost: reset empties it; an illegal word and idleness leave it. -/
def Ghost.afterEvent (g : Ghost) : HostEvent → Ghost
  | .command cw =>
    match decode cw with
    | .command i => g.afterCommand i
    | .illegal _ => g
  | .reset => Ghost.empty
  | .interrupted _ => Ghost.empty
  | .idle => g

/-- The ghost after one step of the machine. -/
def Ghost.afterStep (g : Ghost) (s : State) : Ghost :=
  match s.input with
  | [] => g
  | e :: _ => g.afterEvent e

/-- The ghost after a sequence of interactions. -/
def Ghost.afterEvents (g : Ghost) : List HostEvent → Ghost
  | [] => g
  | e :: es => (g.afterEvent e).afterEvents es

/-- The session invariant of spec/10_state.md R34: `R = crcreg(MSG)`; `KV = 1` exactly when a `FOLD` has executed since
reset, and then `KEY = fold(CRC32(KMSG))`. -/
def SessionHolds (s : State) (g : Ghost) : Prop :=
  s.r = crcreg g.msg ∧
    match g.kmsg with
    | none => s.kv = false ∧ s.key = 0#17
    | some m => s.kv = true ∧ s.key = foldKey (crc32 Config.hardware m)

/-- An interaction that changes no register of the block: a read, an illegal word, idleness (spec/10_state.md R24). -/
def HostEvent.harmless : HostEvent → Bool
  | .command cw =>
    match decode cw with
    | .command .init => false
    | .command (.byte _) => false
    | .command .fold => false
    | .command .rdcrc => true
    | .command .rdkey => true
    | .illegal _ => true
  | .reset => false
  | .interrupted _ => false
  | .idle => true

/-- An interaction that keeps the stored key: anything but `FOLD` and reset (spec/70_reset_and_hazards.md R188). -/
def HostEvent.keepsKey : HostEvent → Bool
  | .command cw => decode cw != .command .fold
  | .reset => false
  | .interrupted _ => false
  | .idle => true

/-- An interaction that gets a response: a command not cut short by reset (spec/70_reset_and_hazards.md R194). -/
def HostEvent.answered : HostEvent → Bool
  | .command _ => true
  | .reset => false
  | .interrupted _ => false
  | .idle => false

end Sys2Proof.Machine
end

