-- ==== Sys2Proof/Certificates/Slice0/Obligations.lean ====
section
/-! DEFINITION. The statements for the provers, in the order of the files of spec/. Each docstring names the rule it
formalises, or says that the spec derives the point or the model chose it. -/

open Sys2Proof Sys2Proof.Machine

/-! ## Reset -/

/-- spec/10_state.md R32: the value of every piece of state after reset; and, the reason the rule gives for `R`, a message
absorbed after reset without `INIT` has the register a message has. -/
def Obligations.ResetHoldsTheStatedValues : Prop :=
  State.reset.r = 0xFFFFFFFF#32 ∧ State.reset.key = 0#17 ∧ State.reset.kv = false ∧
    ∀ m : List Byte, absorbAll State.reset.r m = crcreg m

/-- spec/70_reset_and_hazards.md section 1: a reset between two commands, from every state. That the responses already
delivered stay in the record of the run is the model's choice (notes/assumptions/3.md). -/
def Obligations.ResetEventRestoresTheRegisters : Prop :=
  ∀ (s : State) (rest : List HostEvent), s.input = .reset :: rest →
    ∃ t, step s = .next t ∧ t.r = 0xFFFFFFFF#32 ∧ t.key = 0#17 ∧ t.kv = false ∧ t.input = rest ∧
      t.responses = s.responses

/-- spec/70_reset_and_hazards.md section 1 and spec/10_state.md section 2: no command clears `KV` and only `FOLD` (the word
`0x300`) sets it. -/
def Obligations.OnlyFoldSetsAndOnlyResetClearsKeyValid : Prop :=
  ∀ s t : State, step s = .next t →
    (s.kv = true → t.kv = false →
      s.input.head? = some .reset ∨ ∃ cw, s.input.head? = some (.interrupted cw)) ∧
    (s.kv = false → t.kv = true → s.input.head? = some (.command 0x300#12))

/-- spec/70_reset_and_hazards.md section 3: a command cut short by reset delivers no response and leaves the reset state; and
both orders the rule allows a model, reset before the command and reset after it, leave the same registers. -/
def Obligations.InterruptedCommandLeavesTheResetState : Prop :=
  ∀ (s : State) (cw : CommandWord) (rest : List HostEvent),
    (∃ t, step (offer (.interrupted cw) { s with input := rest }) = .next t ∧ t.r = 0xFFFFFFFF#32 ∧ t.key = 0#17 ∧
      t.kv = false ∧ t.input = rest ∧ t.responses = s.responses ∧
      step (offer .reset { s with input := rest }) = .next t ∧
      ∃ u, Host.Core.run Sys2Proof.core 2 (offer (.command cw) (offer .reset { s with input := rest })) = .next u ∧
        SameRegisters t u ∧ u.input = rest)

/-! ## Encoding and decoding -/

/-- spec/30_encoding.md sections 1, 3 and 5: a word decodes to a command exactly when it is that command's word, with every
operand at every value; so decoding gives back what was encoded, and each command has one word. -/
def Obligations.DecodeAndEncodeAgree : Prop :=
  ∀ (i : Instr) (cw : CommandWord), decode cw = .command i ↔ cw = encode i

/-- spec/30_encoding.md R62: a word selects the row whose `match` is the word under the `mask` and is then the row's command;
no two rows overlap; a word that selects no row is no command; 260 words are defined. -/
def Obligations.DecoderFollowsTheOpcodeMap : Prop :=
  (∀ cw : CommandWord, ∀ row ∈ opcodeRows, selectsRow cw row = true →
    ∃ i, decode cw = .command i ∧ mnemonicOf i = row.mnemonic) ∧
  (∀ cw : CommandWord, (∀ row ∈ opcodeRows, selectsRow cw row = false) → ∃ code, decode cw = .illegal code) ∧
  (∀ cw : CommandWord, (opcodeRows.filter (selectsRow cw)).length ≤ 1) ∧
  opcodeRows.map (fun row => (row.mnemonic, row.pattern, row.mask)) =
    [("INIT", 0x100#12, 0xFFF#12), ("BYTE", 0x200#12, 0xF00#12), ("FOLD", 0x300#12, 0xFFF#12),
      ("RDCRC", 0x400#12, 0xFFF#12), ("RDKEY", 0x500#12, 0xFFF#12)] ∧
  (Finset.univ.filter fun cw : CommandWord => ∃ row ∈ opcodeRows, selectsRow cw row = true).card = 260

/-- spec/30_encoding.md R65: the two kinds of illegal word and how many there are; each is refused, changes no register and
gets its response. -/
def Obligations.IllegalWordsAreRefused : Prop :=
  (∀ cw : CommandWord, decode cw = .illegal .illegalOpcode ↔ (opField cw = 0x0#4 ∨ 0x6#4 ≤ opField cw)) ∧
  (∀ cw : CommandWord, decode cw = .illegal .illegalOperand ↔
    (opField cw ∈ [0x1#4, 0x3#4, 0x4#4, 0x5#4] ∧ imm8Field cw ≠ 0x00#8)) ∧
  (Finset.univ.filter fun cw : CommandWord => decode cw = .illegal .illegalOpcode).card = 2816 ∧
  (Finset.univ.filter fun cw : CommandWord => decode cw = .illegal .illegalOperand).card = 1020 ∧
  decode 0x000#12 = .illegal .illegalOpcode ∧
  (∀ cw : CommandWord, (∃ i, decode cw = .command i) ∨ decode cw = .illegal .illegalOpcode ∨
    decode cw = .illegal .illegalOperand) ∧
  (∀ (s : State) (cw : CommandWord) (rest : List HostEvent), s.input = .command cw :: rest →
    (decode cw = .illegal .illegalOpcode →
      step s = .next { s with input := rest, responses := s.responses ++ [⟨false, 1#32⟩] }) ∧
    (decode cw = .illegal .illegalOperand →
      step s = .next { s with input := rest, responses := s.responses ++ [⟨false, 2#32⟩] }))

/-- Words written out from the encoding of spec/30_encoding.md section 3 decode to the commands they stand for, and the
boundary words of spec/95_test_vectors.md V90 to what it says. -/
def Obligations.WrittenWordsDecode : Prop :=
  decode 0b000100000000#12 = .command .init ∧
  decode 0b001000000000#12 = .command (.byte 0x00#8) ∧
  decode 0b001000110001#12 = .command (.byte 0x31#8) ∧
  decode 0b001011111111#12 = .command (.byte 0xFF#8) ∧
  decode 0b001100000000#12 = .command .fold ∧
  decode 0b010000000000#12 = .command .rdcrc ∧
  decode 0b010100000000#12 = .command .rdkey ∧
  decode 0x0FF#12 = .illegal .illegalOpcode ∧ decode 0x101#12 = .illegal .illegalOperand ∧
  decode 0x1FF#12 = .illegal .illegalOperand ∧ decode 0x301#12 = .illegal .illegalOperand ∧
  decode 0x5FF#12 = .illegal .illegalOperand ∧ decode 0x600#12 = .illegal .illegalOpcode ∧
  decode 0xFFF#12 = .illegal .illegalOpcode

/-! ## The step -/

/-- The machine's step on a command word of the host's stream: it executes the decoded command on the state with the word
taken off the stream, and adds nothing (spec/20_memory.md section 5). The stream is the model's own field
(notes/assumptions/1.md). -/
def Obligations.StepRunsTheDecodedCommand : Prop :=
  ∀ (s : State) (cw : CommandWord) (rest : List HostEvent) (i : Instr), s.input = .command cw :: rest →
    i.wellFormed = true → decode cw = .command i → step s = exec i { s with input := rest }

/-- A row's word placed by `withFetchWord` is what the next step runs, and nothing else of the state changes
(notes/assumptions/2.md, notes/assumptions/10.md: the model's choice of how a word is offered). -/
def Obligations.OfferedTableWordRunsNext : Prop :=
  ∀ (s : State) (nbits w : Nat) (i : Instr), decodeTableWord nbits w = some i →
    step (s.withFetchWord nbits w) = exec i s

/-- spec/70_reset_and_hazards.md section 8, the row "nothing": idleness changes no register and gets no response. That a
machine with no interaction to come steps to the same state, and that an idle interaction is a step of its own, is the
model's choice (notes/assumptions/5.md). -/
def Obligations.IdlenessChangesNothing : Prop :=
  ∀ s : State, (s.input = [] → step s = .next s) ∧
    ∀ rest, s.input = .idle :: rest → step s = .next { s with input := rest }

/-- spec/60_exceptions.md section 1 (no other outcome), spec/70_reset_and_hazards.md section 8 and spec/70_reset_and_hazards.md section 6 (progress): from every state
a step answers a next state, one interaction is used up, and there is exactly one response for an answered interaction
and none for any other. That a step with no interaction to come also answers a next state is the model's choice
(notes/assumptions/5.md). -/
def Obligations.EveryStepAnswers : Prop :=
  ∀ s : State, ∃ t, step s = .next t ∧ t.input = s.input.tail ∧
    ∃ new, t.responses = s.responses ++ new ∧
      new.length = if (s.input.head?.map HostEvent.answered) = some true then 1 else 0

/-- spec/70_reset_and_hazards.md sections 6 and 7: a run over any finite sequence of interactions, from any state, comes to its
end, with one response for each command that no reset cut short, in order after those before. -/
def Obligations.EveryRunAnswersEveryCommand : Prop :=
  ∀ s : State, ∃ t, runAll s = .next t ∧ t.input = [] ∧
    ∃ new, t.responses = s.responses ++ new ∧ new.length = s.input.countP HostEvent.answered

/-! ## The commands -/

/-- spec/40_checksum_engine.md R82, with its encoding, its illegal words and its corner cases. -/
def Obligations.InitStartsANewMessage : Prop :=
  (∀ s : State, exec .init s =
    .next { s with r := 0xFFFFFFFF#32, responses := s.responses ++ [⟨true, 0x00000000#32⟩] }) ∧
  encode .init = 0x100#12 ∧
  (∀ x : Byte, x ≠ 0x00#8 → decode (0x1#4 ++ x) = .illegal .illegalOperand) ∧
  (∀ s t u : State, exec .init s = .next t → exec .init t = .next u → SameRegisters t u) ∧
  (∀ s t : State, s.r = State.reset.r → exec .init s = .next t → SameRegisters s t)

/-- spec/40_checksum_engine.md R83, with its encoding, its corner cases and its worked examples. -/
def Obligations.ByteAbsorbsOneByte : Prop :=
  (∀ (b : Byte) (s : State), exec (.byte b) s =
    .next { s with r := absorb s.r b, responses := s.responses ++ [⟨true, 0x00000000#32⟩] }) ∧
  (∀ b : Byte, encode (.byte b) = 0x200#12 + b.setWidth 12) ∧
  absorb 0xFFFFFFFF#32 0x31#8 = 0x7C231048#32 ∧
  absorb 0xFFFFFFFF#32 0x00#8 = 0x2DFD1072#32 ∧
  absorb 0x00000000#32 0x00#8 = 0x00000000#32 ∧
  absorbAll 0xFFFFFFFF#32 [0xFF#8, 0xFF#8, 0xFF#8, 0xFF#8] = 0x00000000#32

/-- spec/40_checksum_engine.md R84, with its encoding, its illegal words and its corner cases. -/
def Obligations.RdcrcReturnsTheComplement : Prop :=
  (∀ s : State, exec .rdcrc s = .next { s with responses := s.responses ++ [⟨true, s.r ^^^ 0xFFFFFFFF#32⟩] }) ∧
  encode .rdcrc = 0x400#12 ∧
  (∀ x : Byte, x ≠ 0x00#8 → decode (0x4#4 ++ x) = .illegal .illegalOperand) ∧
  (∀ s : State, s.r = 0xFFFFFFFF#32 →
    exec .rdcrc s = .next { s with responses := s.responses ++ [⟨true, 0x00000000#32⟩] }) ∧
  (∀ s t u : State, exec .rdcrc s = .next t → exec .rdcrc t = .next u →
    u.responses.getLast? = t.responses.getLast?) ∧
  (0x340BC6D9#32 ^^^ 0xFFFFFFFF#32 = 0xCBF43926#32)

/-- spec/41_folding_unit.md R103, the three steps of the fold written out, with its encoding, its illegal words and its
corner cases. -/
def Obligations.FoldStoresTheKey : Prop :=
  (∀ s : State, exec .fold s =
    .next { s with
      key := BitVec.ofNat 17 ((((s.r ^^^ 0xFFFFFFFF#32) ^^^ 0x0000AAAA#32).toNat + 0x14C1) % 100000)
      kv := true
      responses := s.responses ++ [⟨true, 0x00000000#32⟩] }) ∧
  encode .fold = 0x300#12 ∧
  (∀ x : Byte, x ≠ 0x00#8 → decode (0x3#4 ++ x) = .illegal .illegalOperand) ∧
  (∀ s t : State, s.r = 0xFFFFFFFF#32 → exec .fold s = .next t → t.key = 49003#17) ∧
  (∀ s t u : State, exec .fold s = .next t → exec .fold t = .next u → u.key = t.key) ∧
  (∀ s t : State, s.r = 0x340BC6D9#32 → exec .fold s = .next t → t.key = 8717#17)

/-- spec/41_folding_unit.md R104: refused with code 3 while `KV = 0`, else the stored key, zero-extended, and at most 99999
in a state that keeps the invariant of spec/10_state.md R33; with its encoding and its illegal words. -/
def Obligations.RdkeyReadsTheStoredKey : Prop :=
  (∀ s : State, s.kv = true →
    exec .rdkey s = .next { s with responses := s.responses ++ [⟨true, s.key.setWidth 32⟩] }) ∧
  (∀ s : State, s.kv = false →
    exec .rdkey s = .next { s with responses := s.responses ++ [⟨false, 0x00000003#32⟩] }) ∧
  encode .rdkey = 0x500#12 ∧
  (∀ x : Byte, x ≠ 0x00#8 → decode (0x5#4 ++ x) = .illegal .illegalOperand) ∧
  (∀ s : State, KeyInRange s → (s.key.setWidth 32).toNat ≤ 99999) ∧
  (∀ s : State, (s.key.setWidth 32).extractLsb' 17 15 = 0#15) ∧
  ((8717#17).setWidth 32 = 0x0000220D#32)

/-! ## Who reads and writes what -/

/-- The table of spec/10_state.md section 2, which the spec derives ("[derived: from rules R32, R82, R83, R84, R103, R104, R150]"),
its entries "w": which command may change which register, for every command; each
delivers one response, after those before, and leaves the host's stream. -/
def Obligations.CommandsWriteOnlyTheirRegisters : Prop :=
  ∀ (i : Instr) (s : State), ∃ t, exec i s = .next t ∧
    (t.r = s.r ∨ i = .init ∨ ∃ b, i = .byte b) ∧
    (t.key = s.key ∨ i = .fold) ∧
    (t.kv = s.kv ∨ i = .fold) ∧
    t.input = s.input ∧ ∃ rsp, t.responses = s.responses ++ [rsp]

/-- The table of spec/10_state.md section 2, derived there as above, its entries "r": what a command writes and answers depends on no register the
table does not mark as read. -/
def Obligations.CommandsReadOnlyTheirRegisters : Prop :=
  (∀ s s' t t' : State, exec .init s = .next t → exec .init s' = .next t' →
    t.r = t'.r ∧ t.responses.getLast? = t'.responses.getLast?) ∧
  (∀ (b : Byte) (s s' t t' : State), s.r = s'.r → exec (.byte b) s = .next t → exec (.byte b) s' = .next t' →
    t.r = t'.r ∧ t.responses.getLast? = t'.responses.getLast?) ∧
  (∀ s s' t t' : State, s.r = s'.r → exec .rdcrc s = .next t → exec .rdcrc s' = .next t' →
    t.responses.getLast? = t'.responses.getLast?) ∧
  (∀ s s' t t' : State, s.r = s'.r → exec .fold s = .next t → exec .fold s' = .next t' →
    t.key = t'.key ∧ t.kv = t'.kv ∧ t.responses.getLast? = t'.responses.getLast?) ∧
  (∀ s s' t t' : State, s.key = s'.key → s.kv = s'.kv → exec .rdkey s = .next t → exec .rdkey s' = .next t' →
    t.responses.getLast? = t'.responses.getLast?)

/-- spec/60_exceptions.md sections 3 and 8, spec/20_memory.md section 4, spec/70_reset_and_hazards.md section 4: a read, a refused
word or idleness put anywhere into a sequence of interactions does not change the registers the sequence leaves. -/
def Obligations.HarmlessEventsDoNotDisturbASession : Prop :=
  ∀ (s : State) (before after : List HostEvent) (e : HostEvent), e.harmless = true →
    ∃ t u, runAll { s with input := before ++ e :: after } = .next t ∧
      runAll { s with input := before ++ after } = .next u ∧ SameRegisters t u

/-- spec/70_reset_and_hazards.md section 4 (the stale key) and spec/42_host_sequences.md section 4 (the accessor): after any
interactions but `FOLD` and reset, the accessor answers what it answered before them. -/
def Obligations.StoredKeyIsReadUntilTheNextFold : Prop :=
  ∀ (s t : State), (∀ e ∈ s.input, e.keepsKey = true) → runAll s = .next t →
    ∃ rsp, (hostAccessor s).map Prod.snd = some rsp ∧ (hostAccessor t).map Prod.snd = some rsp

/-- The idempotent commands of spec/20_memory.md section 4, which the spec derives ("[derived: from rules R82, R83, R84, R103, R104, R150]"): after a command other than `BYTE`, the same command again leaves
the same registers and gives the same response; and `BYTE` is not idempotent. -/
def Obligations.AllButByteAreIdempotent : Prop :=
  (∀ (i : Instr) (s : State), (∀ b, i ≠ .byte b) →
    ∃ t u, exec i s = .next t ∧ exec i t = .next u ∧ SameRegisters t u ∧
      u.responses.getLast? = t.responses.getLast?) ∧
  ∃ (b : Byte) (s t u : State), exec (.byte b) s = .next t ∧ exec (.byte b) t = .next u ∧ u.r ≠ t.r

/-! ## The invariants -/

/-- The invariant of spec/10_state.md section 10 holds of the reset state. -/
def Obligations.ResetKeyIsInRange : Prop :=
  KeyInRange State.reset

/-- The invariant of spec/10_state.md section 10, which the spec derives ("[derived: from rules R32, R103]"): whatever the host does, a step keeps `KEY` at most 99999, and 0 while no key
is valid. -/
def Obligations.StepKeepsKeyInRange : Prop :=
  ∀ s t : State, KeyInRange s → step s = .next t → KeyInRange t

/-- The session invariant of spec/10_state.md section 10 holds of the reset state with the empty ghost. -/
def Obligations.ResetSessionHolds : Prop :=
  SessionHolds State.reset Ghost.empty

/-- The session invariant of spec/10_state.md section 10, which the spec derives ("[derived: from rules R32, R82, R83, R84, R85, R103]"),
kept by every step: `R` is the register of the bytes absorbed since
the last `INIT` or reset, and `KEY` is the fold of the checksum at the last `FOLD`. -/
def Obligations.StepKeepsTheSession : Prop :=
  ∀ (s t : State) (g : Ghost), SessionHolds s g → step s = .next t → SessionHolds t (g.afterStep s)

/-- The same over whole runs (spec/10_state.md section 10): from reset, after any interactions of the host, the registers are
those the ghost message gives. -/
def Obligations.RunsFromResetTrackTheirMessage : Prop :=
  ∀ (es : List HostEvent) (t : State), runAll { State.reset with input := es } = .next t →
    SessionHolds t (Ghost.empty.afterEvents es)

/-! ## The Checksum Engine's functions -/

/-- spec/40_checksum_engine.md R80, bit by bit: bit `i` of the result is bit `i + 1` of `r` (0 for bit 31), flipped where
`POLY` has a bit and the low bit of `r` is 1; with the five worked examples. -/
def Obligations.BitStepShiftsAndFlips : Prop :=
  (∀ r : Word, r.getLsbD 0 = true → step1 r = (r >>> 1) ^^^ 0xEDB88320#32) ∧
  (∀ r : Word, r.getLsbD 0 = false → step1 r = r >>> 1) ∧
  (∀ (r : Word) (i : Nat), i < 32 →
    (step1 r).getLsbD i = ((decide (i < 31) && r.getLsbD (i + 1)) ^^ (r.getLsbD 0 && (0xEDB88320#32).getLsbD i))) ∧
  step1 0x00000000#32 = 0x00000000#32 ∧ step1 0x00000001#32 = 0xEDB88320#32 ∧
  step1 0x00000002#32 = 0x00000001#32 ∧ step1 0xFFFFFFFF#32 = 0x92477CDF#32 ∧
  step1 0x80000000#32 = 0x40000000#32

/-- spec/40_checksum_engine.md R81: one XOR of the byte into the low 8 bits, then exactly 8 bit steps, with the rule's trace of
`absorb(0xFFFFFFFF, 0x31)`. -/
def Obligations.ByteStepIsEightBitSteps : Prop :=
  (∀ (r : Word) (b : Byte), absorb r b = step1^[8] (r ^^^ b.setWidth 32)) ∧
  (∀ (r : Word) (b : Byte), (r ^^^ b.setWidth 32).extractLsb' 8 24 = r.extractLsb' 8 24 ∧
    (r ^^^ b.setWidth 32).extractLsb' 0 8 = r.extractLsb' 0 8 ^^^ b) ∧
  (List.range 9).map (fun n => bitSteps n (0xFFFFFFFF#32 ^^^ (0x31#8).setWidth 32)) =
    [0xFFFFFFCE#32, 0x7FFFFFE7#32, 0xD2477CD3#32, 0x849B3D49#32, 0xAFF51D84#32, 0x57FA8EC2#32, 0x2BFD4761#32,
      0xF8462090#32, 0x7C231048#32] ∧
  absorb 0xFFFFFFFF#32 0x31#8 = 0x7C231048#32

/-- The law of spec/40_checksum_engine.md section 5 that the spec derives for the bit step ("[derived: from rule R80]"): it is linear over XOR, its bit 31 is
the low bit that was tested, and `unstep1` is its inverse on both sides. -/
def Obligations.BitStepIsLinearAndInvertible : Prop :=
  (∀ a b : Word, step1 (a ^^^ b) = step1 a ^^^ step1 b) ∧
  (∀ r : Word, (step1 r).getLsbD 31 = r.getLsbD 0) ∧
  (∀ r : Word, unstep1 (step1 r) = r) ∧ ∀ r : Word, step1 (unstep1 r) = r

/-- The consequences (a) and (b) of spec/40_checksum_engine.md section 5, which the spec derives ("[derived: from rules R81, R87]"): the byte step splits over XOR,
is a bijection of the registers for each byte, and tells two bytes apart from each register. -/
def Obligations.ByteStepIsLinearAndBijective : Prop :=
  (∀ (r : Word) (b : Byte), absorb r b = step1^[8] r ^^^ step1^[8] (b.setWidth 32)) ∧
  (∀ b : Byte, Function.Bijective fun r : Word => absorb r b) ∧
  ∀ r : Word, Function.Injective fun b : Byte => absorb r b

/-- The consequence (c) of spec/40_checksum_engine.md section 5, which the spec derives ("[derived: from rules R81, R87]"): two messages of one length that differ
in exactly one byte have different checksums. -/
def Obligations.OneChangedByteChangesTheChecksum : Prop :=
  ∀ (before after : List Byte) (b b' : Byte), b ≠ b' →
    crc32 Config.hardware (before ++ b :: after) ≠ crc32 Config.hardware (before ++ b' :: after)

/-- The reachability of spec/40_checksum_engine.md section 5, which the spec derives ("[derived: from rules R87, R88]"): from any register, four bytes are one XOR and
32 bit steps, and every register is reached by exactly one message of four bytes. -/
def Obligations.FourBytesReachEveryRegisterOnce : Prop :=
  (∀ (r : Word) (b0 b1 b2 b3 : Byte),
    absorbAll r [b0, b1, b2, b3] = bitSteps 32 (r ^^^ (b3 ++ b2 ++ b1 ++ b0 : Word))) ∧
  ∀ r t : Word, ∃! m : List Byte, m.length = 4 ∧ absorbAll r m = t

/-- spec/40_checksum_engine.md section 4: each of the three implementation forms gives the byte step, for every register and byte.
-/
def Obligations.EveryFormOfTheByteStepAgrees : Prop :=
  ∀ (f : ImplForm) (r : Word) (b : Byte), absorbIn f r b = absorb r b

/-- The register is 32 bits in form (a) and its 3-bit count is back at zero after the byte (spec/10_state.md section 8): after each
of the clocks the hidden state is the count and as many bit steps. -/
def Obligations.SerialFormCountsItsBitSteps : Prop :=
  ∀ (n : Nat) (x : Word), serialClocks n (0#3, x) = (BitVec.ofNat 3 n, bitSteps n x)

/-- spec/43_crc_table.md sections 1 and 2, which the spec derives ("[derived: from rule R140]"): every one of the 256 constants is 8 bit steps of its index, and
the checks a reader can make on a copy of the table. -/
def Obligations.TableHoldsTheBitSteps : Prop :=
  crcTable.length = 256 ∧
  (∀ i : Byte, tableEntry i = bitSteps 8 (i.setWidth 32)) ∧
  tableEntry 0x01#8 = 0x77073096#32 ∧ tableEntry 0x80#8 = poly ∧ tableEntry 0xFF#8 = 0x2D02EF8D#32 ∧
  crcTable.foldl (fun a x => a ^^^ x) 0#32 = 0#32 ∧
  (crcTable.map BitVec.toNat).sum = 549755813760 ∧
  ∀ i j : Byte, (tableEntry i).extractLsb' 24 8 = (tableEntry j).extractLsb' 24 8 → i = j

/-- The laws of spec/43_crc_table.md section 3, which the spec derives ("[derived: from rules R87, R140]"): the table is linear over XOR, so eight entries generate it,
and injective. -/
def Obligations.TableIsLinearAndInjective : Prop :=
  (∀ i j : Byte, tableEntry (i ^^^ j) = tableEntry i ^^^ tableEntry j) ∧
  Function.Injective tableEntry ∧
  [0x01#8, 0x02#8, 0x04#8, 0x08#8, 0x10#8, 0x20#8, 0x40#8, 0x80#8].map tableEntry =
    [0x77073096#32, 0xEE0E612C#32, 0x076DC419#32, 0x0EDB8832#32, 0x1DB71064#32, 0x3B6E20C8#32, 0x76DC4190#32,
      0xEDB88320#32]

/-! ## The folding unit's function -/

/-- spec/41_folding_unit.md R100: the three steps in their order, the bounds of the sum and the key, the bits the mask leaves, that
the order matters, and the worked example. -/
def Obligations.FoldIsXorAddReduce : Prop :=
  (∀ c : Word, foldMask c = c ^^^ 0x0000AAAA#32 ∧ foldSum c = (foldMask c).toNat + 5313 ∧
    (foldKey c).toNat = foldSum c % 100000) ∧
  (∀ c : Word, 5313 ≤ foldSum c ∧ foldSum c ≤ 4294972608 ∧ (foldKey c).toNat ≤ 99999) ∧
  (∀ (c : Word) (i : Nat), (foldMask c).getLsbD i = (c.getLsbD i ^^ decide (i ∈ [15, 13, 11, 9, 7, 5, 3, 1]))) ∧
  (∃ c : Word, ((c + 0x000014C1#32) ^^^ 0x0000AAAA#32).toNat % 100000 ≠ (foldKey c).toNat) ∧
  foldMask 0xCBF43926#32 = 0xCBF4938C#32 ∧ foldSum 0xCBF43926#32 = 3421808717 ∧ foldKey 0xCBF43926#32 = 8717#17

/-- spec/41_folding_unit.md section 1 (the exact sum): it fits in 33 bits, has bit 32 set exactly when the masked checksum is at
least `0xFFFFEB3F`, which 5313 checksums are, and a unit that dropped that bit would be wrong on each of them. -/
def Obligations.FoldSumNeedsThirtyThreeBits : Prop :=
  (∀ c : Word, foldSum c < 2 ^ 33) ∧
  (∀ c : Word, 2 ^ 32 ≤ foldSum c ↔ 0xFFFFEB3F#32 ≤ foldMask c) ∧
  (Finset.univ.filter fun c : Word => 2 ^ 32 ≤ foldSum c).card = 5313 ∧
  (∀ c : Word, 2 ^ 32 ≤ foldSum c →
    (foldKey c).toNat = ((foldSum c - 2 ^ 32) % 100000 + 67296) % 100000 ∧
      (foldKey c).toNat ≠ (foldSum c - 2 ^ 32) % 100000) ∧
  foldKey 0xFFFF5555#32 = 72608#17 ∧ (foldSum 0xFFFF5555#32 - 2 ^ 32) % 100000 = 5312

/-- The law (c) of spec/41_folding_unit.md section 4, which the spec derives ("[derived: from rules R100, R101]"): how many of the 2^32 checksums fold to each key; so
every key is reached and the fold is not injective. -/
def Obligations.EveryKeyHasItsNumberOfChecksums : Prop :=
  ∀ k : Nat, k ≤ 99999 →
    (Finset.univ.filter fun c : Word => (foldKey c).toNat = k).card =
      if 5313 ≤ k ∧ k ≤ 72608 then 42950 else 42949

/-! ## Whole messages and the host procedures -/

/-- spec/40_checksum_engine.md section 3, whose sentence on the command sequence the spec derives ("[derived: from rules R82,
R83, R84]"), and spec/42_host_sequences.md section 4: the command sequence `CRC32(m)`, for a message of any
length from any state, ends with the checksum of the message, and leaves its register and the stored key. -/
def Obligations.ChecksumSequenceGivesTheChecksum : Prop :=
  (∀ (m : List Byte) (s : State), ∃ t, hostCrc32 m s = some (t, crcreg m ^^^ 0xFFFFFFFF#32) ∧
    t.r = crcreg m ∧ t.key = s.key ∧ t.kv = s.kv ∧ t.input = s.input) ∧
  (∀ (m : List Byte) (s : State), ∃ t,
    runAll { s with input := (Instr.init :: expandMsgx m ++ [Instr.rdcrc]).map fun i => .command (encode i) } = .next t ∧
      t.responses = s.responses ++ List.replicate (m.length + 1) ⟨true, 0#32⟩ ++ [⟨true, crc32 Config.hardware m⟩])

/-- spec/42_host_sequences.md section 4: the sequence `MKEY` gives the fold of the checksum of the message, from any state, and
stores it, which the spec derives ("[derived: from rules R82, R83, R85, R103, R104]") for its eleven commands; that the
model sends a message of any length in the same way is its choice (notes/assumptions/18.md). -/
def Obligations.KeySequenceGivesTheKey : Prop :=
  ∀ (m : List Byte) (s : State), ∃ t,
    hostMkeyBytes m s = some (t, (foldKey (crc32 Config.hardware m)).setWidth 32) ∧
      t.r = crcreg m ∧ t.key = foldKey (crc32 Config.hardware m) ∧ t.kv = true ∧ t.input = s.input ∧
      t.responses = s.responses ++ List.replicate (m.length + 2) ⟨true, 0#32⟩ ++
        [⟨true, (foldKey (crc32 Config.hardware m)).setWidth 32⟩]

/-- spec/42_host_sequences.md sections 1 to 4, with the order of the checks: the serial number first, then the date, and a failed validation
issues no command, so that the whole state is as it was; otherwise the message is assembled and `MKEY` runs. The result of
`MKEY` is what the spec derives in section 4; that a digit's byte is 0x30 to 0x39 is general knowledge there and PRESUMED
here (notes/assumptions/15.md). -/
def Obligations.DeriveValidatesThenDerives : Prop :=
  ∀ (serial month day : List Char) (s : State),
    (validSerial serial = false → deriveMasterKey serial month day s = some (s, .invalidSerialNumber)) ∧
    (validSerial serial = true → validDate (month ++ day) = false →
      deriveMasterKey serial month day s = some (s, .invalidDate)) ∧
    (validSerial serial = true → validDate (month ++ day) = true →
      ∃ m t, asciiBytes (month ++ day ++ (serial.drop 4).take 4) = some m ∧ m.length = 8 ∧
        (∀ b ∈ m, 0x30#8 ≤ b ∧ b ≤ 0x39#8) ∧
        deriveMasterKey serial month day s = some (t, .key ((foldKey (crc32 Config.hardware m)).setWidth 32)) ∧
        t.key = foldKey (crc32 Config.hardware m) ∧ t.kv = true ∧ t.input = s.input ∧
        t.responses.length = s.responses.length + 11)

/-- The properties (a), (b) and (d) of spec/42_host_sequences.md section 5, which the spec derives ("[derived: from rules R85, R88, R106, R120, R125]"): the result of `DERIVE` is at most
99999 and depends on `month ++ day` and on characters 4 to 7 of a valid serial number and on nothing else, neither the
start state nor where the date is cut in two. -/
def Obligations.KeyDependsOnDateAndSerialTailOnly : Prop :=
  ∀ (serial serial' month day month' day' : List Char) (s s' : State),
    validSerial serial = true → validSerial serial' = true → validDate (month ++ day) = true →
    month ++ day = month' ++ day' → (serial.drop 4).take 4 = (serial'.drop 4).take 4 →
    ∃ t t' k, deriveMasterKey serial month day s = some (t, .key k) ∧
      deriveMasterKey serial' month' day' s' = some (t', .key k) ∧ k.toNat ≤ 99999

/-- The two predicates of spec/42_host_sequences.md section 2: what is valid, character by character, with no range check on the
date. That the ten digits are the characters with the codes 0x30 to 0x39 is general knowledge in the spec and PRESUMED here
(notes/assumptions/15.md). -/
def Obligations.ValidationIsLengthAndAlphabet : Prop :=
  (∀ serial : List Char, validSerial serial = true ↔
    serial.length = 8 ∧ ∀ c ∈ serial, 0x30 ≤ c.toNat ∧ c.toNat ≤ 0x39) ∧
  (∀ date : List Char, validDate date = true ↔
    date.length = 4 ∧ ∀ c ∈ date, 0x30 ≤ c.toNat ∧ c.toNat ≤ 0x39) ∧
  (validDate (['1', '2'] ++ ['2', '6']) = true ∧ validDate (['1'] ++ ['2', '2', '6']) = true ∧
    validDate (['1', '2', '2'] ++ ['6']) = true ∧ validDate ([] ++ ['1', '2', '2', '6']) = true ∧
    validDate (['1'] ++ ['2', '6']) = false) ∧
  validDate ['0', '0', '0', '0'] = true ∧ validDate ['1', '3', '3', '2'] = true ∧
  validDate ['9', '9', '9', '9'] = true

/-- spec/60_exceptions.md R163: the document's rejection scenarios, from every state, which they leave as it was. The other inputs of
each call are those of spec/95_test_vectors.md V4 to V6. -/
def Obligations.RejectionScenarios : Prop :=
  ∀ s : State,
    deriveMasterKey ['5', '4', '0', '3', '3', '6', '2'] ['1', '2'] ['2', '6'] s = some (s, .invalidSerialNumber) ∧
    deriveMasterKey ['5', '4', '0', '3', '3', '6', '2', 'A'] ['1', '2'] ['2', '6'] s = some (s, .invalidSerialNumber) ∧
    deriveMasterKey ['5', '4', '0', '3', '3', '6', '2', '0'] ['1'] ['2', '6'] s = some (s, .invalidDate)

/-- spec/30_encoding.md section 7: the expansion of a listing's `MKEY` line, sent word by word, leaves the registers and gives the
responses of the host procedure. That a line with other arguments than a validated date and serial number expands too
is the model's choice (notes/assumptions/18.md). -/
def Obligations.MkeyLineIsTheKeySequence : Prop :=
  ∀ (date serial : List Char) (ws : List CommandWord) (s : State), assembleListing [.mkey date serial] = some ws →
    ∃ t k, hostMkey (keyMessage date serial) { s with input := [] } = some (t, k) ∧
      runAll { s with input := ws.map .command } = .next t

/-- Conflict C1 of spec/90_conflicts.md (notes/assumptions/8.md) and the configuration constant of spec/00_scope.md section 4: on the message "12263620" the
hardware's rules give 66668, and the rules without the final complement the document's literal 11253; the document's
check value needs the complement. -/
def Obligations.ComplementDecidesTheDocumentsExample : Prop :=
  foldKey (crc32 Config.hardware [0x31#8, 0x32#8, 0x32#8, 0x36#8, 0x33#8, 0x36#8, 0x32#8, 0x30#8]) = 66668#17 ∧
  foldKey (crc32 Config.withoutComplement [0x31#8, 0x32#8, 0x32#8, 0x36#8, 0x33#8, 0x36#8, 0x32#8, 0x30#8]) = 11253#17 ∧
  crc32 Config.hardware [0x31#8, 0x32#8, 0x33#8, 0x34#8, 0x35#8, 0x36#8, 0x37#8, 0x38#8, 0x39#8] = 0xCBF43926#32 ∧
  crc32 Config.hardware [] = 0x00000000#32

/-- spec/10_state.md section 11, the state machine of one derivation: `Unvalidated` until its `FOLD` has executed, which with
validation as the first stage is the eleventh, and `Derived` after; `Rejected`, with the block as it was, once a
validation fails; both terminal; and a derivation run through its twelve stages ends as `DERIVE` does. The stages are
the model's reading (notes/assumptions/20.md). -/
def Obligations.DerivationIsDerivedOnceItsFoldHasExecuted : Prop :=
  (∀ (serial month day : List Char) (s : State) (n : Nat),
    validSerial serial = true → validDate (month ++ day) = true →
    ∃ d t, runDerivation n (.held serial month day) s = some (d, t) ∧
      (n ≤ 10 → derivationState d = .unvalidated ∧ t.key = s.key ∧ t.kv = s.kv) ∧
      (11 ≤ n → derivationState d = .derived ∧ t.kv = true ∧
        ∃ m, asciiBytes (keyMessage (month ++ day) serial) = some m ∧ t.key = foldKey (crc32 Config.hardware m)) ∧
      (12 ≤ n → ∃ result, d = .ended result ∧ deriveMasterKey serial month day s = some (t, result))) ∧
  (∀ (serial month day : List Char) (s : State) (n : Nat),
    (validSerial serial = false ∨ validDate (month ++ day) = false) → 1 ≤ n →
    ∃ result, runDerivation n (.held serial month day) s = some (.ended result, s) ∧
      derivationState (.ended result) = .rejected ∧ deriveMasterKey serial month day s = some (s, result)) ∧
  (∀ (d d' : Derivation) (s t : State), derivationState d ≠ .unvalidated → advanceDerivation d s = some (d', t) →
    derivationState d' = derivationState d)

/-! ## Instances and ports -/

/-- spec/20_memory.md section 7 and spec/60_exceptions.md section 8: a step of one instance of a system, which is always possible,
leaves every other instance as it was, and steps of two different instances give the same system in either order. -/
def Obligations.InstancesAreIndependent : Prop :=
  ∀ (sys : List State) (i j : Nat), i < sys.length → j < sys.length → i ≠ j →
    (∃ sys', stepInstance i sys = some sys' ∧ sys'.length = sys.length ∧ sys'[j]? = sys[j]? ∧
      (∃ s t, sys[i]? = some s ∧ step s = .next t ∧ sys'[i]? = some t)) ∧
    (stepInstance i sys).bind (stepInstance j) = (stepInstance j sys).bind (stepInstance i)

/-- spec/70_reset_and_hazards.md sections 3, 5 and 6: whatever the latencies and whatever is on the input ports in each clock cycle,
the registers and responses of the block at its ports are those of the command-level machine run over the interactions
that have completed. The port model's choices are in notes/assumptions/12.md and 19.md. -/
def Obligations.PortsRefineTheCommands : Prop :=
  ∀ (p : OpenParameters) (is : List PortIn) (s : PortState), s.block.input = [] →
    runAll { s.block with input := portEvents p is s } = .next (clockRun p is s).block

/-- spec/70_reset_and_hazards.md sections 5 and 6: a word accepted by an idle block gets its response exactly `latency` clocks later,
if reset stays low, whatever else is on the ports; until then `cmd_ready` and `rsp_valid` are 0; and the response and the
state are those of `issue`. The model's choices in it (notes/assumptions/12.md): `rsp_ok` and `rsp_val` are 0 before the
response, an illegal word has the latency `latIllegal`, the registers change at the edge that ends the first cycle of the
response, and the response stays for `rspHold` cycles, after which the block is ready at once. -/
def Obligations.ResponseComesAfterTheLatency : Prop :=
  ∀ (p : OpenParameters) (b : State) (held seen : Nat) (first next : PortIn) (others hold : List PortIn), p.WellFormed →
    first.rst = false → first.cmdValid = true → (∀ i ∈ others, i.rst = false) → (∀ i ∈ hold, i.rst = false) →
    next.rst = false →
    (others.length + 1 < latency p first.cmd →
      (clockRun p (first :: others) ⟨b, .idle, held, seen⟩).block = b ∧
      portOutIn p next (clockRun p (first :: others) ⟨b, .idle, held, seen⟩) = ⟨false, false, false, 0#32⟩) ∧
    (others.length + 1 = latency p first.cmd →
      ∃ t rsp, issue first.cmd b = some (t, rsp) ∧
        clockRun p (first :: others) ⟨b, .idle, held, seen⟩ = ⟨b, .delivering first.cmd, 0, seen⟩ ∧
        (hold.length < p.rspHold →
          portOutIn p next (clockRun p (first :: others ++ hold) ⟨b, .idle, held, seen⟩) = ⟨false, true, rsp.ok, rsp.val⟩) ∧
        (1 ≤ hold.length → hold.length < p.rspHold →
          (clockRun p (first :: others ++ hold) ⟨b, .idle, held, seen⟩).block = t) ∧
        (hold.length = p.rspHold →
          clockRun p (first :: others ++ hold) ⟨b, .idle, held, seen⟩ = ⟨t, .idle, 0, seen⟩ ∧
          portOutIn p next (clockRun p (first :: others ++ hold) ⟨b, .idle, held, seen⟩) = ⟨true, false, false, 0#32⟩))

/-- spec/70_reset_and_hazards.md section 3, at the ports: in the first cycle of a response, either the response is on the
ports and is delivered, also where a reset that leaves it on the ports wipes the registers at the same edge; or an
asynchronous reset has taken it off the ports, and then the command is cut short: no response, no surviving write, the
reset state. At no other edge is a response delivered. That a response counts as delivered at the edge that ends its first
cycle on the ports is the model's choice (notes/assumptions/12.md); what each style of reset does to the ports, and when a
reset takes effect, are those of notes/assumptions/19.md. -/
def Obligations.ResponseIsDeliveredWhenItIsOnThePorts : Prop :=
  ∀ (p : OpenParameters) (i : PortIn) (s : PortState),
    (∀ cw, s.phase = .delivering cw → (portOutIn p i s).rspValid = true →
      (clockEdge p i s).block.responses = s.block.responses ++ [⟨(portOutIn p i s).rspOk, (portOutIn p i s).rspVal⟩] ∧
      edgeEvents p i s = .command cw :: if i.rst = true ∧ resetTakesEffect p s = true then [.reset] else []) ∧
    (∀ cw, s.phase = .delivering cw → (portOutIn p i s).rspValid = false →
      i.rst = true ∧ p.rstSync = .asynchronous ∧ resetTakesEffect p s = true ∧
      SameRegisters (clockEdge p i s).block State.reset ∧ (clockEdge p i s).phase = .idle ∧
      (clockEdge p i s).block.responses = s.block.responses ∧ edgeEvents p i s = [.interrupted cw]) ∧
    ((∀ cw, s.phase ≠ .delivering cw) → (clockEdge p i s).block.responses = s.block.responses)

/-- spec/70_reset_and_hazards.md section 5 and spec/93_implementation_defined.md U18: a word offered while `cmd_ready` is 0 is not
accepted: what is on `cmd_valid` and `cmd` makes no difference to the edge. That `cmd_ready` is also 0 while reset
is asserted is the model's choice (notes/assumptions/19.md). -/
def Obligations.WordsOfferedWhileNotReadyAreIgnored : Prop :=
  ∀ (p : OpenParameters) (s : PortState) (i j : PortIn), (portOutIn p i s).cmdReady = false → i.rst = j.rst →
    clockEdge p i s = clockEdge p j s

/-- spec/70_reset_and_hazards.md sections 1, 3 and 5: reset asserted for at least RST_MIN_CYCLES cycles, by the level its polarity
says, from any state at the ports, leaves the three registers at their reset values and the block idle, with no word
accepted in those cycles and no response delivered on the way but one that goes on the ports in the first of them; and
the first cycle after it is ready. What the block does until the reset takes effect, when a response counts as delivered,
and how soon the block is ready, are the model's choices (notes/assumptions/12.md and 19.md). -/
def Obligations.HeldResetResetsTheBlock : Prop :=
  ∀ (p : OpenParameters) (s : PortState) (x : InputPins) (xs : List InputPins) (next : InputPins),
    p.rstMinCycles ≤ xs.length + 1 → (∀ y ∈ x :: xs, y.rst = (p.rstPolarity == .activeHigh)) →
    next.rst = (p.rstPolarity == .activeLow) →
    (∀ y ∈ x :: xs, ∀ u : PortState, (portOutIn p (readPins p y) u).cmdReady = false) ∧
    SameRegisters (pinRun p (x :: xs) s).block State.reset ∧ (pinRun p (x :: xs) s).phase = .idle ∧
    (pinRun p (x :: xs) s).block.responses = (clockEdge p (readPins p x) s).block.responses ∧
    ((∀ cw, s.phase ≠ .delivering cw) → (pinRun p (x :: xs) s).block.responses = s.block.responses) ∧
    portOutIn p (readPins p next) (pinRun p (x :: xs) s) = ⟨true, false, false, 0#32⟩
end

