-- ==== Sys2Proof/Laws/Functions.lean ====
section
/-! SUPPORT. Lemmas of the block's functions: bit steps, absorbing a message, folding, the bytes of a text. -/

namespace Sys2Proof.Machine

@[simp] theorem bitSteps_zero (r : Word) : bitSteps 0 r = r := rfl

theorem bitSteps_succ (n : Nat) (r : Word) : bitSteps (n + 1) r = bitSteps n (step1 r) := rfl

theorem bitSteps_add (m n : Nat) (r : Word) : bitSteps (m + n) r = bitSteps n (bitSteps m r) := by
  induction m generalizing r with
  | zero => simp
  | succ m ih => rw [Nat.succ_add, bitSteps_succ, bitSteps_succ, ih]

@[simp] theorem absorbAll_nil (r : Word) : absorbAll r [] = r := rfl

@[simp] theorem absorbAll_cons (r : Word) (b : Byte) (m : List Byte) :
    absorbAll r (b :: m) = absorbAll (absorb r b) m := rfl

theorem absorbAll_append (r : Word) (m n : List Byte) : absorbAll r (m ++ n) = absorbAll (absorbAll r m) n := by
  simp [absorbAll, List.foldl_append]

/-- Absorbing one more byte extends the message by it (spec/40_checksum_engine.md R85). -/
theorem crcreg_concat (m : List Byte) (b : Byte) : crcreg (m ++ [b]) = absorb (crcreg m) b := by
  simp [crcreg, absorbAll_append]

@[simp] theorem crcreg_nil : crcreg [] = crcInit := rfl

/-- The key as a number: the remainder, which fits in 17 bits (spec/41_folding_unit.md R100). -/
theorem foldKey_toNat (c : Word) : (foldKey c).toNat = foldSum c % keyMod := by
  have h : foldSum c % keyMod < 2 ^ 17 :=
    Nat.lt_trans (Nat.mod_lt _ (by decide)) (by decide)
  rw [foldKey, BitVec.toNat_ofNat, Nat.mod_eq_of_lt h]

/-- The table has `TABLE_ENTRIES` entries, so an 8-bit index is always within it (spec/43_crc_table.md R142). -/
theorem crcTable_length : crcTable.length = tableEntries := by decide +kernel

/-- All that `asciiByte` can answer. -/
theorem asciiByte_eq_some (c : Char) (b : Byte) :
    asciiByte c = some b ↔ c.toNat < 128 ∧ b = BitVec.ofNat 8 c.toNat := by
  unfold asciiByte
  split <;> simp_all [eq_comm]

@[simp] theorem asciiBytes_nil : asciiBytes [] = some [] := rfl

theorem asciiBytes_cons (c : Char) (cs : List Char) (b : Byte) (bs : List Byte) (hc : asciiByte c = some b)
    (hs : asciiBytes cs = some bs) : asciiBytes (c :: cs) = some (b :: bs) := by
  simp [asciiBytes, hc, hs]

end Sys2Proof.Machine
end

