-- ==== Sys2Proof/Laws/PerInstr.lean ====
section
/-! SUPPORT. A fact about every command as syntax: the fields of its command word are the ones its row gives, and they
pass both checks of Sys2Proof/WellFormed.lean. One lemma per constructor of `Instr`. -/

namespace Sys2Proof.Laws.FieldsOfTheWord

/-- The word of `i` carries exactly the fields of `i`, which are well-formed, and selects the row with its mnemonic. -/
def Statement (i : Instr) : Prop :=
  opField (encode i) = i.fields.op ∧ imm8Field (encode i) = i.fields.imm8 ∧ i.wellFormed = true ∧
    ∃ row ∈ opcodeRows, row.mnemonic = mnemonicOf i ∧ selectsRow (encode i) row = true

theorem init : Statement .init :=
  ⟨by decide, by decide, by decide, ⟨"INIT", 0x100#12, 0xFFF#12⟩, by decide, rfl, by decide⟩

theorem byte (imm8 : Byte) : Statement (.byte imm8) := by
  refine ⟨?_, ?_, rfl, ⟨"BYTE", 0x200#12, 0xF00#12⟩, by decide, rfl, ?_⟩
  · revert imm8; decide
  · revert imm8; decide
  · revert imm8; decide

theorem fold : Statement .fold :=
  ⟨by decide, by decide, by decide, ⟨"FOLD", 0x300#12, 0xFFF#12⟩, by decide, rfl, by decide⟩

theorem rdcrc : Statement .rdcrc :=
  ⟨by decide, by decide, by decide, ⟨"RDCRC", 0x400#12, 0xFFF#12⟩, by decide, rfl, by decide⟩

theorem rdkey : Statement .rdkey :=
  ⟨by decide, by decide, by decide, ⟨"RDKEY", 0x500#12, 0xFFF#12⟩, by decide, rfl, by decide⟩

end Sys2Proof.Laws.FieldsOfTheWord
end

