-- ==== Sys2Proof/Laws/State.lean ====
section
/-! SUPPORT. One lemma per field per update of the state, and what the state operations do to one another. -/

namespace Sys2Proof.Machine

@[simp] theorem writeR_r (v : Word) (s : State) : (writeR v s).r = v := rfl
@[simp] theorem writeR_key (v : Word) (s : State) : (writeR v s).key = s.key := rfl
@[simp] theorem writeR_kv (v : Word) (s : State) : (writeR v s).kv = s.kv := rfl
@[simp] theorem writeR_input (v : Word) (s : State) : (writeR v s).input = s.input := rfl
@[simp] theorem writeR_responses (v : Word) (s : State) : (writeR v s).responses = s.responses := rfl

@[simp] theorem writeKey_r (v : KeyWord) (s : State) : (writeKey v s).r = s.r := rfl
@[simp] theorem writeKey_key (v : KeyWord) (s : State) : (writeKey v s).key = v := rfl
@[simp] theorem writeKey_kv (v : KeyWord) (s : State) : (writeKey v s).kv = s.kv := rfl
@[simp] theorem writeKey_input (v : KeyWord) (s : State) : (writeKey v s).input = s.input := rfl
@[simp] theorem writeKey_responses (v : KeyWord) (s : State) : (writeKey v s).responses = s.responses := rfl

@[simp] theorem setKeyValid_r (s : State) : (setKeyValid s).r = s.r := rfl
@[simp] theorem setKeyValid_key (s : State) : (setKeyValid s).key = s.key := rfl
@[simp] theorem setKeyValid_kv (s : State) : (setKeyValid s).kv = true := rfl
@[simp] theorem setKeyValid_input (s : State) : (setKeyValid s).input = s.input := rfl
@[simp] theorem setKeyValid_responses (s : State) : (setKeyValid s).responses = s.responses := rfl

@[simp] theorem deliver_r (rsp : Response) (s : State) : (deliver rsp s).r = s.r := rfl
@[simp] theorem deliver_key (rsp : Response) (s : State) : (deliver rsp s).key = s.key := rfl
@[simp] theorem deliver_kv (rsp : Response) (s : State) : (deliver rsp s).kv = s.kv := rfl
@[simp] theorem deliver_input (rsp : Response) (s : State) : (deliver rsp s).input = s.input := rfl
@[simp] theorem deliver_responses (rsp : Response) (s : State) : (deliver rsp s).responses = s.responses ++ [rsp] := rfl

@[simp] theorem respond_r (v : Word) (s : State) : (respond v s).r = s.r := rfl
@[simp] theorem respond_key (v : Word) (s : State) : (respond v s).key = s.key := rfl
@[simp] theorem respond_kv (v : Word) (s : State) : (respond v s).kv = s.kv := rfl
@[simp] theorem respond_input (v : Word) (s : State) : (respond v s).input = s.input := rfl
@[simp] theorem respond_responses (v : Word) (s : State) : (respond v s).responses = s.responses ++ [⟨true, v⟩] := rfl

@[simp] theorem refuse_r (code : RefusalCode) (s : State) : (refuse code s).r = s.r := rfl
@[simp] theorem refuse_key (code : RefusalCode) (s : State) : (refuse code s).key = s.key := rfl
@[simp] theorem refuse_kv (code : RefusalCode) (s : State) : (refuse code s).kv = s.kv := rfl
@[simp] theorem refuse_input (code : RefusalCode) (s : State) : (refuse code s).input = s.input := rfl
@[simp] theorem refuse_responses (code : RefusalCode) (s : State) : (refuse code s).responses = s.responses ++ [⟨false, refusalNumber code⟩] := rfl

@[simp] theorem resetRegisters_r (s : State) : (resetRegisters s).r = 0xFFFFFFFF#32 := rfl
@[simp] theorem resetRegisters_key (s : State) : (resetRegisters s).key = 0#17 := rfl
@[simp] theorem resetRegisters_kv (s : State) : (resetRegisters s).kv = false := rfl
@[simp] theorem resetRegisters_input (s : State) : (resetRegisters s).input = s.input := rfl
@[simp] theorem resetRegisters_responses (s : State) : (resetRegisters s).responses = s.responses := rfl

@[simp] theorem dropEvent_r (s : State) : (dropEvent s).r = s.r := rfl
@[simp] theorem dropEvent_key (s : State) : (dropEvent s).key = s.key := rfl
@[simp] theorem dropEvent_kv (s : State) : (dropEvent s).kv = s.kv := rfl
@[simp] theorem dropEvent_input (s : State) : (dropEvent s).input = s.input.tail := rfl
@[simp] theorem dropEvent_responses (s : State) : (dropEvent s).responses = s.responses := rfl

@[simp] theorem offer_r (e : HostEvent) (s : State) : (offer e s).r = s.r := rfl
@[simp] theorem offer_key (e : HostEvent) (s : State) : (offer e s).key = s.key := rfl
@[simp] theorem offer_kv (e : HostEvent) (s : State) : (offer e s).kv = s.kv := rfl
@[simp] theorem offer_input (e : HostEvent) (s : State) : (offer e s).input = e :: s.input := rfl
@[simp] theorem offer_responses (e : HostEvent) (s : State) : (offer e s).responses = s.responses := rfl

@[simp] theorem dropEvent_offer (e : HostEvent) (s : State) : dropEvent (offer e s) = s := rfl

@[simp] theorem keyValid_eq (s : State) : keyValid s = s.kv := rfl

/-- Two states with equal fields are equal. -/
theorem state_eq_of_fields (s t : State) (hr : s.r = t.r) (hk : s.key = t.key) (hv : s.kv = t.kv)
    (hi : s.input = t.input) (ho : s.responses = t.responses) : s = t := by
  cases s; cases t; simp_all

/-- All that `offerTableWord` can do: the word is offered next, or, when the port cannot carry it, nothing changes. -/
theorem offerTableWord_cases (nbits w : Nat) (s : State) :
    (∃ cw, commandWordOfTable nbits w = some cw ∧ offerTableWord nbits w s = offer (.command cw) s) ∨
      (commandWordOfTable nbits w = none ∧ offerTableWord nbits w s = s) := by
  unfold offerTableWord
  cases h : commandWordOfTable nbits w with
  | some cw => exact .inl ⟨cw, rfl, rfl⟩
  | none => exact .inr ⟨rfl, rfl⟩

end Sys2Proof.Machine
end

