-- ==== Sys2Proof/Laws/Step.lean ====
section
/-! SUPPORT. What a command and a step can do, said once; provers cite these instead of unfolding `exec` and `step`. -/

namespace Sys2Proof.Machine

@[simp] theorem exec_init (s : State) : exec .init s = .next (respond 0#32 (writeR crcInit s)) := rfl

@[simp] theorem exec_byte (b : Byte) (s : State) :
    exec (.byte b) s = .next (respond 0#32 (writeR (absorb s.r b) s)) := rfl

@[simp] theorem exec_fold (s : State) : exec .fold s =
    .next (respond 0#32 (setKeyValid (writeKey (foldKey (checksumOut Config.hardware s.r)) s))) := rfl

@[simp] theorem exec_rdcrc (s : State) :
    exec .rdcrc s = .next (respond (checksumOut Config.hardware s.r) s) := rfl

theorem exec_rdkey (s : State) :
    exec .rdkey s = .next (if s.kv then respond (keyOut s.key) s else refuse .keyNotValid s) := by
  simp only [exec, execRdkey, keyValid_eq]
  split <;> simp_all

theorem exec_rdkey_of_valid (s : State) (h : s.kv = true) :
    exec .rdkey s = .next (respond (keyOut s.key) s) := by
  rw [exec_rdkey, if_pos h]

theorem exec_rdkey_of_not_valid (s : State) (h : s.kv = false) :
    exec .rdkey s = .next (refuse .keyNotValid s) := by
  rw [exec_rdkey, if_neg (by simp [h])]

theorem acceptWord_of_command (cw : CommandWord) (i : Instr) (s : State) (h : decode cw = .command i) :
    acceptWord cw s = exec i s := by
  rw [acceptWord, h]

theorem acceptWord_of_illegal (cw : CommandWord) (code : RefusalCode) (s : State) (h : decode cw = .illegal code) :
    acceptWord cw s = .next (refuse code s) := by
  rw [acceptWord, h]

theorem step_of_no_event (s : State) (h : s.input = []) : step s = .next s := by
  rw [step, advance, h]

theorem step_of_event (s : State) (e : HostEvent) (es : List HostEvent) (h : s.input = e :: es) :
    step s = takeEvent e (dropEvent s) := by
  rw [step, advance, h]

@[simp] theorem step_offer (e : HostEvent) (s : State) : step (offer e s) = takeEvent e s := rfl

@[simp] theorem run_zero (s : State) : Host.Core.run Sys2Proof.core 0 s = .next s := rfl

/-- A run of any machine is one step and the rest of the run, when that step answers a next state. -/
theorem core_run_succ (M : Host.Core) (n : Nat) (s t : M.State) (h : M.step s = .next t) :
    M.run (n + 1) s = M.run n t := by
  simp only [Host.Core.run, h]

/-- The same for this machine. -/
theorem run_succ_of_step (n : Nat) (s t : State) (h : step s = .next t) :
    Host.Core.run Sys2Proof.core (n + 1) s = Host.Core.run Sys2Proof.core n t :=
  core_run_succ Sys2Proof.core n s t h

/-- All that `exec` can answer: a next state with the registers and the one response of one of the five commands, and
the host's coming events as they were. -/
theorem exec_cases (i : Instr) (s : State) : ∃ t rsp, exec i s = .next t ∧ t.input = s.input ∧
    t.responses = s.responses ++ [rsp] ∧
    ((i = .init ∧ rsp = ⟨true, 0#32⟩ ∧ t.r = crcInit ∧ t.key = s.key ∧ t.kv = s.kv) ∨
      (∃ b, i = .byte b ∧ rsp = ⟨true, 0#32⟩ ∧ t.r = absorb s.r b ∧ t.key = s.key ∧ t.kv = s.kv) ∨
      (i = .fold ∧ rsp = ⟨true, 0#32⟩ ∧ t.r = s.r ∧ t.key = foldKey (checksumOut Config.hardware s.r) ∧ t.kv = true) ∨
      (i = .rdcrc ∧ rsp = ⟨true, checksumOut Config.hardware s.r⟩ ∧ t.r = s.r ∧ t.key = s.key ∧ t.kv = s.kv) ∨
      (i = .rdkey ∧ s.kv = true ∧ rsp = ⟨true, keyOut s.key⟩ ∧ t.r = s.r ∧ t.key = s.key ∧ t.kv = s.kv) ∨
      (i = .rdkey ∧ s.kv = false ∧ rsp = refusalResponse .keyNotValid ∧ t.r = s.r ∧ t.key = s.key ∧ t.kv = s.kv)) := by
  cases i with
  | init => exact ⟨_, ⟨true, 0#32⟩, exec_init s, by simp⟩
  | byte b => exact ⟨_, ⟨true, 0#32⟩, exec_byte b s, by simp⟩
  | fold => exact ⟨_, ⟨true, 0#32⟩, exec_fold s, by simp⟩
  | rdcrc => exact ⟨_, ⟨true, checksumOut Config.hardware s.r⟩, exec_rdcrc s, by simp⟩
  | rdkey =>
    cases h : s.kv with
    | true => exact ⟨_, ⟨true, keyOut s.key⟩, exec_rdkey_of_valid s h, by simp [h]⟩
    | false => exact ⟨_, refusalResponse .keyNotValid, exec_rdkey_of_not_valid s h, by simp [h, refusalResponse]⟩

/-- All that one interaction of the host can do: it answers a next state, and which one. -/
theorem takeEvent_cases (e : HostEvent) (s : State) : ∃ t, takeEvent e s = .next t ∧ t.input = s.input ∧
    ((∃ cw i, e = .command cw ∧ decode cw = .command i ∧ exec i s = .next t) ∨
      (∃ cw code, e = .command cw ∧ decode cw = .illegal code ∧ t = refuse code s) ∨
      ((e = .reset ∨ ∃ cw, e = .interrupted cw) ∧ t = resetRegisters s) ∨
      (e = .idle ∧ t = s)) := by
  cases e with
  | command cw =>
    cases hd : decode cw with
    | command i =>
      obtain ⟨t, _, he, hi, _⟩ := exec_cases i s
      exact ⟨t, (acceptWord_of_command cw i s hd).trans he, hi, .inl ⟨cw, i, rfl, hd, he⟩⟩
    | illegal code =>
      exact ⟨_, acceptWord_of_illegal cw code s hd, rfl, .inr (.inl ⟨cw, code, rfl, hd, rfl⟩)⟩
  | reset => exact ⟨_, rfl, rfl, .inr (.inr (.inl ⟨.inl rfl, rfl⟩))⟩
  | interrupted cw => exact ⟨_, rfl, rfl, .inr (.inr (.inl ⟨.inr ⟨cw, rfl⟩, rfl⟩))⟩
  | idle => exact ⟨_, rfl, rfl, .inr (.inr (.inr ⟨rfl, rfl⟩))⟩

/-- A command word whose execution answers `t` with the response `rsp` is issued with exactly that. -/
theorem issue_of_exec (cw : CommandWord) (i : Instr) (s t : State) (rsp : Response) (hd : decode cw = .command i)
    (he : exec i s = .next t) (hr : t.responses.getLast? = some rsp) : issue cw s = some (t, rsp) := by
  simp [issue, takeEvent, acceptWord_of_command cw i s hd, he, hr]

/-- An illegal word is issued with its refusal. -/
theorem issue_of_illegal (cw : CommandWord) (code : RefusalCode) (s : State) (hd : decode cw = .illegal code) :
    issue cw s = some (refuse code s, refusalResponse code) := by
  simp [issue, takeEvent, acceptWord_of_illegal cw code s hd, refusalResponse]

/-- A step of instance `k` replaces that instance by its next state and nothing else. -/
theorem stepInstance_of_step (k : Nat) (sys : List State) (s t : State) (hk : sys[k]? = some s)
    (hs : step s = .next t) : stepInstance k sys = some (sys.set k t) := by
  simp [stepInstance, hk, hs]

end Sys2Proof.Machine
end

