-- ==== Sys2Proof/Laws/Runs.lean ====
section
/-! SUPPORT. Lemmas of the ghost message, of the port model's clock edge and of the stages of a derivation, one per case. -/

namespace Sys2Proof.Machine

theorem afterEvent_of_command (g : Ghost) (cw : CommandWord) (i : Instr) (h : decode cw = .command i) :
    g.afterEvent (.command cw) = g.afterCommand i := by
  simp only [Ghost.afterEvent, h]

theorem afterEvent_of_illegal (g : Ghost) (cw : CommandWord) (code : RefusalCode) (h : decode cw = .illegal code) :
    g.afterEvent (.command cw) = g := by
  simp only [Ghost.afterEvent, h]

theorem afterStep_of_event (g : Ghost) (s : State) (e : HostEvent) (es : List HostEvent) (h : s.input = e :: es) :
    g.afterStep s = g.afterEvent e := by
  simp only [Ghost.afterStep, h]

theorem afterStep_of_no_event (g : Ghost) (s : State) (h : s.input = []) : g.afterStep s = g := by
  simp only [Ghost.afterStep, h]

/-- All that an edge with reset asserted can do: the whole reset, or nothing but counting the cycle. -/
theorem resetEdge_cases (p : OpenParameters) (s : PortState) :
    (resetTakesEffect p s = true ∧
      resetEdge p s = ⟨resetRegisters s.block, .idle, s.rstHeld + 1, s.rstSeen + 1⟩) ∨
      (resetTakesEffect p s = false ∧ resetEdge p s = ⟨s.block, s.phase, s.rstHeld + 1, s.rstSeen + 1⟩) := by
  cases h : resetTakesEffect p s with
  | true => exact .inl ⟨rfl, by rw [resetEdge, if_pos h]⟩
  | false => exact .inr ⟨rfl, by rw [resetEdge, if_neg (by simp [h])]⟩

/-- A reset that has lasted long enough takes effect, whatever the free value is. -/
theorem resetTakesEffect_of_held (p : OpenParameters) (s : PortState) (h : p.rstMinCycles ≤ s.rstHeld + 1) :
    resetTakesEffect p s = true := by
  simp [resetTakesEffect, h]

/-- What `portOutIn` drives depends on the level of reset alone among the inputs. -/
theorem portOutIn_congr (p : OpenParameters) (i j : PortIn) (s : PortState) (h : i.rst = j.rst) :
    portOutIn p i s = portOutIn p j s := by
  rw [portOutIn, portOutIn, h]

theorem portOutIn_of_no_reset (p : OpenParameters) (i : PortIn) (s : PortState) (h : i.rst = false) :
    portOutIn p i s = portOut s := by
  rw [portOutIn, if_neg (by simp [h])]

/-- While reset is asserted the ports show what the phase drives, without `cmd_ready`; but an asynchronous reset that
takes effect leaves nothing on them. -/
theorem portOutIn_of_reset (p : OpenParameters) (i : PortIn) (s : PortState) (h : i.rst = true) :
    (p.rstSync = .asynchronous ∧ resetTakesEffect p s = true ∧ portOutIn p i s = quietOut) ∨
      (¬(p.rstSync = .asynchronous ∧ resetTakesEffect p s = true) ∧
        portOutIn p i s = { portOut s with cmdReady := false }) := by
  cases hs : p.rstSync <;> cases he : resetTakesEffect p s <;>
    simp [portOutIn, h, hs, he]

theorem portOut_of_delivering (s : PortState) (cw : CommandWord) (b : State) (rsp : Response)
    (h : s.phase = .delivering cw) (hi : issue cw s.block = some (b, rsp)) : portOut s = responseOut rsp := by
  simp [portOut, h, hi]

/-- All that the delivery of a response can do: the command in hand completes with the state and the response of `issue`,
which was on the ports; or nothing. -/
theorem deliverPresented_cases (p : OpenParameters) (i : PortIn) (s : PortState) :
    (∃ cw t rsp, s.phase = .delivering cw ∧ issue cw s.block = some (t, rsp) ∧ (portOutIn p i s).rspValid = true ∧
      deliverPresented p i s = { s with block := t, phase := .presenting rsp (p.rspHold - 1) }) ∨
      (((∀ cw, s.phase ≠ .delivering cw) ∨ (∃ cw, s.phase = .delivering cw ∧ issue cw s.block = none) ∨
        (portOutIn p i s).rspValid = false) ∧ deliverPresented p i s = s) := by
  cases hp : s.phase with
  | delivering cw =>
    cases hi : issue cw s.block with
    | none => exact .inr ⟨.inr (.inl ⟨cw, rfl, hi⟩), by simp [deliverPresented, hp, hi]⟩
    | some x =>
      cases hv : (portOutIn p i s).rspValid with
      | true => exact .inl ⟨cw, x.1, x.2, rfl, hi, rfl, by simp [deliverPresented, hp, hi, hv]⟩
      | false => exact .inr ⟨.inr (.inr rfl), by simp [deliverPresented, hp, hi, hv]⟩
  | idle => exact .inr ⟨.inl (by simp), by simp [deliverPresented, hp]⟩
  | executing _ _ => exact .inr ⟨.inl (by simp), by simp [deliverPresented, hp]⟩
  | presenting _ _ => exact .inr ⟨.inl (by simp), by simp [deliverPresented, hp]⟩

theorem deliverPresented_of_not_delivering (p : OpenParameters) (i : PortIn) (s : PortState)
    (h : ∀ cw, s.phase ≠ .delivering cw) : deliverPresented p i s = s := by
  rcases deliverPresented_cases p i s with ⟨cw, _, _, hp, -⟩ | ⟨-, hs⟩
  · exact absurd hp (h cw)
  · exact hs

/-- Delivering a response does not touch the counts of the reset port, so it does not decide whether a reset takes
effect. -/
@[simp] theorem resetTakesEffect_deliverPresented (p : OpenParameters) (i : PortIn) (s : PortState) :
    resetTakesEffect p (deliverPresented p i s) = resetTakesEffect p s := by
  rcases deliverPresented_cases p i s with ⟨_, _, _, -, -, -, hs⟩ | ⟨-, hs⟩ <;> simp [hs, resetTakesEffect]

theorem clockEdge_of_reset (p : OpenParameters) (i : PortIn) (s : PortState) (h : i.rst = true) :
    clockEdge p i s = resetEdge p (deliverPresented p i s) := by
  rw [clockEdge, if_pos h]

theorem clockEdge_of_no_reset (p : OpenParameters) (i : PortIn) (s : PortState) (h : i.rst = false) :
    clockEdge p i s = runEdge p i (deliverPresented p i s) := by
  rw [clockEdge, if_neg (by simp [h])]

@[simp] theorem runEdge_block (p : OpenParameters) (i : PortIn) (s : PortState) : (runEdge p i s).block = s.block := rfl

@[simp] theorem runEdge_phase (p : OpenParameters) (i : PortIn) (s : PortState) :
    (runEdge p i s).phase = phaseEdge p i s.phase := rfl

/-- What an idle block does at an edge without reset: it accepts the word that is offered, or stays. -/
@[simp] theorem phaseEdge_idle (p : OpenParameters) (i : PortIn) :
    phaseEdge p i .idle = if i.cmdValid then countDown i.cmd (latency p i.cmd - 1) else .idle := rfl

@[simp] theorem phaseEdge_executing (p : OpenParameters) (i : PortIn) (cw : CommandWord) (n : Nat) :
    phaseEdge p i (.executing cw n) = countDown cw n := rfl

@[simp] theorem phaseEdge_presenting_succ (p : OpenParameters) (i : PortIn) (rsp : Response) (n : Nat) :
    phaseEdge p i (.presenting rsp (n + 1)) = .presenting rsp n := rfl

@[simp] theorem phaseEdge_presenting_zero (p : OpenParameters) (i : PortIn) (rsp : Response) :
    phaseEdge p i (.presenting rsp 0) = .idle := rfl

@[simp] theorem countDown_succ (cw : CommandWord) (n : Nat) : countDown cw (n + 1) = .executing cw n := rfl

@[simp] theorem countDown_zero (cw : CommandWord) : countDown cw 0 = .delivering cw := rfl

@[simp] theorem clockRun_nil (p : OpenParameters) (s : PortState) : clockRun p [] s = s := rfl

@[simp] theorem clockRun_cons (p : OpenParameters) (i : PortIn) (is : List PortIn) (s : PortState) :
    clockRun p (i :: is) s = clockRun p is (clockEdge p i s) := rfl

/-- A stage of a derivation that is not its last issues one word and notes whether it was `FOLD`. -/
theorem advanceDerivation_of_issue (cw cw' : CommandWord) (rest : List CommandWord) (folded : Bool) (s t : State)
    (rsp : Response) (h : issue cw s = some (t, rsp)) :
    advanceDerivation (.issuing (cw :: cw' :: rest) folded) s =
      some (.issuing (cw' :: rest) (folded || decode cw == .command .fold), t) := by
  simp [advanceDerivation, h]

/-- The last stage ends the derivation with the response's value as its key. -/
theorem advanceDerivation_of_last (cw : CommandWord) (folded : Bool) (s t : State) (rsp : Response)
    (h : issue cw s = some (t, rsp)) :
    advanceDerivation (.issuing [cw] folded) s = some (.ended (.key rsp.val), t) := by
  simp [advanceDerivation, h]

@[simp] theorem advanceDerivation_of_ended (result : DeriveResult) (s : State) :
    advanceDerivation (.ended result) s = some (.ended result, s) := rfl

theorem runDerivation_succ (n : Nat) (d d' : Derivation) (s t : State) (h : advanceDerivation d s = some (d', t)) :
    runDerivation (n + 1) d s = runDerivation n d' t := by
  simp [runDerivation, h]

end Sys2Proof.Machine
end

