-- ==== Sys2Proof/Tests/Slice0.lean ====
section
/-! SUPPORT. Tests on fixed values and, for each statement of Certificates/Slice0/Obligations.lean that has hypotheses, a
concrete state and operands that meet them. Expected values come from spec/95_test_vectors.md (the vector is named), from
the words of spec/30_encoding.md R62 written out bit by bit, or from a worked example of a rule. -/

namespace Sys2Proof.Tests
open Sys2Proof Sys2Proof.Machine

/-- A block with the given registers, whose host will do `input`. -/
def blockWith (r : Word) (key : KeyWord) (kv : Bool) (input : List HostEvent) : State :=
  ⟨r, key, kv, input, []⟩

/-! ## Well-formed fields: one ill-formed term per check -/

theorem test_opAssigned_refuses_op_zero : (CommandFields.mk 0x0#4 0x00#8).opAssigned = false := by decide

theorem test_opAssigned_refuses_op_six : (CommandFields.mk 0x6#4 0x00#8).wellFormed = false := by decide

theorem test_operandLegal_refuses_fold_operand : (CommandFields.mk 0x3#4 0xFF#8).operandLegal = false := by decide

theorem test_operandLegal_admits_byte_operand : (CommandFields.mk 0x2#4 0xFF#8).wellFormed = true := by decide

/-! ## Decoding: each row's word written out from spec/30_encoding.md R62 -/

theorem test_decode_init : decode 0b000100000000#12 = .command .init := by decide

theorem test_decode_byte : decode 0b001000110001#12 = .command (.byte 0x31#8) := by decide

theorem test_decode_byte_top : decode 0b001011111111#12 = .command (.byte 0xFF#8) := by decide

theorem test_decode_fold : decode 0b001100000000#12 = .command .fold := by decide

theorem test_decode_rdcrc : decode 0b010000000000#12 = .command .rdcrc := by decide

theorem test_decode_rdkey : decode 0b010100000000#12 = .command .rdkey := by decide

/-- V76, V77, V79, V82 and the boundary words of V90. -/
theorem test_decode_illegal : decode 0x000#12 = .illegal .illegalOpcode ∧ decode 0x0FF#12 = .illegal .illegalOpcode ∧
    decode 0xFFF#12 = .illegal .illegalOpcode ∧ decode 0x600#12 = .illegal .illegalOpcode ∧
    decode 0x101#12 = .illegal .illegalOperand ∧ decode 0x501#12 = .illegal .illegalOperand := by decide

theorem test_encode : encode .init = 0x100#12 ∧ encode (.byte 0x9A#8) = 0x29A#12 ∧ encode .fold = 0x300#12 ∧
    encode .rdcrc = 0x400#12 ∧ encode .rdkey = 0x500#12 := by decide

theorem test_decodeTableWord : decodeTableWord 16 0x231 = some (.byte 0x31#8) ∧ decodeTableWord 12 0x500 = some .rdkey ∧
    decodeTableWord 16 0x501 = none ∧ decodeTableWord 16 0x1100 = none := by decide

/-! ## Functions -/

/-- V14, V15, V16. -/
theorem test_step1 : step1 0xFFFFFFFF#32 = 0x92477CDF#32 ∧ step1 0x80000000#32 = 0x40000000#32 ∧
    step1 0x80000001#32 = 0xADB88320#32 := by decide

/-- V28, in the form of rule R81. -/
theorem test_absorb : absorb 0x12345678#32 0x9A#8 = 0x4E16B702#32 := by decide

/-- V28, in the form of rule R142. -/
theorem test_absorbByTable : absorbByTable 0x12345678#32 0x9A#8 = 0x4E16B702#32 := by decide

/-- V53, V55, V59, V62: the carry and both ends of the key. -/
theorem test_foldKey : foldKey 0xFFFF5555#32 = 72608#17 ∧ foldKey 0xFFFF4195#32 = 67296#17 ∧
    foldKey 0x0001DB75#32 = 0#17 ∧ foldKey 0x0001DB74#32 = 99999#17 := by decide

/-! ## One step per command -/

/-- V70. -/
theorem test_step_init : step (blockWith 0x340BC6D9#32 8717#17 true [.command 0x100#12]) =
    .next ⟨0xFFFFFFFF#32, 8717#17, true, [], [⟨true, 0x00000000#32⟩]⟩ := rfl

/-- V71. -/
theorem test_step_byte : step (blockWith 0xFFFFFFFF#32 0#17 false [.command 0x231#12]) =
    .next ⟨0x7C231048#32, 0#17, false, [], [⟨true, 0x00000000#32⟩]⟩ := rfl

/-- V88. -/
theorem test_step_byte_fixed_point : step (blockWith 0x00000000#32 8717#17 true [.command 0x200#12]) =
    .next ⟨0x00000000#32, 8717#17, true, [], [⟨true, 0x00000000#32⟩]⟩ := rfl

/-- V72. -/
theorem test_step_rdcrc : step (blockWith 0x340BC6D9#32 0#17 false [.command 0x400#12]) =
    .next ⟨0x340BC6D9#32, 0#17, false, [], [⟨true, 0xCBF43926#32⟩]⟩ := rfl

/-- V73. -/
theorem test_step_fold : step (blockWith 0x340BC6D9#32 0#17 false [.command 0x300#12]) =
    .next ⟨0x340BC6D9#32, 8717#17, true, [], [⟨true, 0x00000000#32⟩]⟩ := rfl

/-- V89: key 0 is a valid key. -/
theorem test_step_fold_key_zero : step (blockWith 0xFFFE248A#32 8717#17 true [.command 0x300#12]) =
    .next ⟨0xFFFE248A#32, 0#17, true, [], [⟨true, 0x00000000#32⟩]⟩ := rfl

/-- V74. -/
theorem test_step_rdkey : step (blockWith 0x340BC6D9#32 8717#17 true [.command 0x500#12]) =
    .next ⟨0x340BC6D9#32, 8717#17, true, [], [⟨true, 0x0000220D#32⟩]⟩ := rfl

/-- V75. -/
theorem test_step_rdkey_not_valid : step (blockWith 0xFFFFFFFF#32 0#17 false [.command 0x500#12]) =
    .next ⟨0xFFFFFFFF#32, 0#17, false, [], [⟨false, 0x00000003#32⟩]⟩ := rfl

/-- V82: the operand check comes before the key check (spec/60_exceptions.md R155). -/
theorem test_step_illegal_operand : step (blockWith 0xFFFFFFFF#32 0#17 false [.command 0x501#12]) =
    .next ⟨0xFFFFFFFF#32, 0#17, false, [], [⟨false, 0x00000002#32⟩]⟩ := rfl

/-- P3, step 1: reset from arbitrary registers. -/
theorem test_step_reset : step (blockWith 0x12345678#32 77777#17 true [.reset]) =
    .next ⟨0xFFFFFFFF#32, 0#17, false, [], []⟩ := rfl

/-- A `FOLD` cut short by reset leaves the reset state and no response (spec/70_reset_and_hazards.md R186). -/
theorem test_step_interrupted : step (blockWith 0x340BC6D9#32 0#17 false [.interrupted 0x300#12]) =
    .next ⟨0xFFFFFFFF#32, 0#17, false, [], []⟩ := rfl

theorem test_withFetchWord : step (State.reset.withFetchWord 16 0x300) =
    .next ⟨0xFFFFFFFF#32, 49003#17, true, [], [⟨true, 0x00000000#32⟩]⟩ := rfl

/-! ## Listings and validation -/

/-- The example of spec/30_encoding.md R69. -/
theorem test_listing_byte_forms : assembleListing [.byte (.number 0x31), .byte (.character '1')] =
    some [0x231#12, 0x231#12] := by decide

theorem test_listing_number_too_large : assembleListing [.byte (.number 256)] = none := by decide

/-- The words of program P2. -/
theorem test_listing_mkey :
    assembleListing [.mkey ['1', '2', '2', '6'] ['5', '4', '0', '3', '3', '6', '2', '0']] =
      some [0x100#12, 0x231#12, 0x232#12, 0x232#12, 0x236#12, 0x233#12, 0x236#12, 0x232#12, 0x230#12, 0x300#12,
        0x500#12] := by decide

/-- V4, V6, V103. -/
theorem test_validation : validSerial ['5', '4', '0', '3', '3', '6', '2'] = false ∧
    validDate ['1', '2', '6'] = false ∧ validSerial ['+', '5', '4', '0', '3', '3', '6', '2'] = false := by decide

/-! ## Witnesses: the hypotheses of the statements can be met -/

theorem witness_ResetEventRestoresTheRegisters :
    (blockWith 0x12345678#32 77777#17 true [.reset, .idle]).input = .reset :: [.idle] := rfl

theorem witness_OnlyFold_clears : ∃ s t : State, step s = .next t ∧ s.kv = true ∧ t.kv = false :=
  ⟨blockWith 0#32 5#17 true [.reset], _, rfl, rfl, rfl⟩

theorem witness_OnlyFold_clears_interrupted : ∃ s t : State, step s = .next t ∧ s.kv = true ∧ t.kv = false :=
  ⟨blockWith 0#32 5#17 true [.interrupted 0x200#12], _, rfl, rfl, rfl⟩

theorem witness_OnlyFold_sets : ∃ s t : State, step s = .next t ∧ s.kv = false ∧ t.kv = true :=
  ⟨blockWith 0#32 0#17 false [.command 0x300#12], _, rfl, rfl, rfl⟩

theorem witness_OpcodeMap_each_row : selectsRow 0x100#12 ⟨"INIT", 0x100#12, 0xFFF#12⟩ = true ∧
    selectsRow 0x2FF#12 ⟨"BYTE", 0x200#12, 0xF00#12⟩ = true ∧ selectsRow 0x300#12 ⟨"FOLD", 0x300#12, 0xFFF#12⟩ = true ∧
    selectsRow 0x400#12 ⟨"RDCRC", 0x400#12, 0xFFF#12⟩ = true ∧
    selectsRow 0x500#12 ⟨"RDKEY", 0x500#12, 0xFFF#12⟩ = true := by decide

theorem witness_OpcodeMap_no_row : ∀ row ∈ opcodeRows, selectsRow 0x101#12 row = false := by decide

theorem witness_IllegalWords_opcode : (blockWith 0#32 0#17 false [.command 0x600#12]).input = .command 0x600#12 :: [] ∧
    decode 0x600#12 = .illegal .illegalOpcode := by decide

theorem witness_IllegalWords_operand : (blockWith 0#32 0#17 false [.command 0x5FF#12]).input = .command 0x5FF#12 :: [] ∧
    decode 0x5FF#12 = .illegal .illegalOperand := by decide

theorem witness_StepRunsTheDecodedCommand :
    (blockWith 0#32 0#17 false [.command 0x2FF#12, .reset]).input = .command 0x2FF#12 :: [.reset] ∧
      (Instr.byte 0xFF#8).wellFormed = true ∧ decode 0x2FF#12 = .command (.byte 0xFF#8) := by decide

theorem witness_OfferedTableWordRunsNext : decodeTableWord 16 0x400 = some .rdcrc := by decide

theorem witness_IdlenessChangesNothing : State.reset.input = [] ∧
    (blockWith 0#32 0#17 false [.idle, .reset]).input = .idle :: [.reset] := ⟨rfl, rfl⟩

theorem witness_nonzero_operand : (0x01#8 : Byte) ≠ 0x00#8 ∧ (0xFF#8 : Byte) ≠ 0x00#8 := by decide

theorem witness_Init_twice : ∃ s t u : State, exec .init s = .next t ∧ exec .init t = .next u :=
  ⟨blockWith 5#32 8717#17 true [], _, _, rfl, rfl⟩

theorem witness_Init_after_reset : ∃ s t : State, s.r = State.reset.r ∧ exec .init s = .next t :=
  ⟨State.reset, _, rfl, rfl⟩

theorem witness_Rdcrc_of_empty_message : ∃ s t : State, s.r = 0xFFFFFFFF#32 ∧ exec .rdcrc s = .next t :=
  ⟨State.reset, _, rfl, rfl⟩

theorem witness_Rdcrc_twice : ∃ s t u : State, exec .rdcrc s = .next t ∧ exec .rdcrc t = .next u :=
  ⟨State.reset, _, _, rfl, rfl⟩

theorem witness_Fold_of_empty_message : ∃ s t : State, s.r = 0xFFFFFFFF#32 ∧ exec .fold s = .next t :=
  ⟨State.reset, _, rfl, rfl⟩

theorem witness_Fold_twice : ∃ s t u : State, exec .fold s = .next t ∧ exec .fold t = .next u :=
  ⟨State.reset, _, _, rfl, rfl⟩

theorem witness_Fold_example : ∃ s t : State, s.r = 0x340BC6D9#32 ∧ exec .fold s = .next t :=
  ⟨blockWith 0x340BC6D9#32 0#17 false [], _, rfl, rfl⟩

theorem witness_Rdkey_valid : (blockWith 0#32 99999#17 true []).kv = true ∧ KeyInRange (blockWith 0#32 99999#17 true []) := by
  decide

theorem witness_Rdkey_not_valid : State.reset.kv = false ∧ KeyInRange State.reset := by decide

theorem witness_Reads_init : ∃ s s' t t' : State, s.r ≠ s'.r ∧ exec .init s = .next t ∧ exec .init s' = .next t' :=
  ⟨blockWith 1#32 2#17 true [], State.reset, _, _, by decide, rfl, rfl⟩

theorem witness_Reads_byte : ∃ s s' t t' : State, s.r = s'.r ∧ s.key ≠ s'.key ∧ exec (.byte 7#8) s = .next t ∧
    exec (.byte 7#8) s' = .next t' :=
  ⟨blockWith 0xFFFFFFFF#32 2#17 true [], State.reset, _, _, rfl, by decide, rfl, rfl⟩

theorem witness_Reads_rdcrc : ∃ s s' t t' : State, s.r = s'.r ∧ s.key ≠ s'.key ∧ exec .rdcrc s = .next t ∧
    exec .rdcrc s' = .next t' :=
  ⟨blockWith 0xFFFFFFFF#32 2#17 true [], State.reset, _, _, rfl, by decide, rfl, rfl⟩

theorem witness_Reads_fold : ∃ s s' t t' : State, s.r = s'.r ∧ s.key ≠ s'.key ∧ exec .fold s = .next t ∧
    exec .fold s' = .next t' :=
  ⟨blockWith 0xFFFFFFFF#32 2#17 true [], State.reset, _, _, rfl, by decide, rfl, rfl⟩

theorem witness_Reads_rdkey : ∃ s s' t t' : State, s.key = s'.key ∧ s.kv = s'.kv ∧ s.r ≠ s'.r ∧
    exec .rdkey s = .next t ∧ exec .rdkey s' = .next t' :=
  ⟨blockWith 1#32 2#17 true [], blockWith 9#32 2#17 true [], _, _, rfl, rfl, by decide, rfl, rfl⟩

theorem witness_HarmlessEvents : (HostEvent.command 0x400#12).harmless = true ∧
    (HostEvent.command 0x500#12).harmless = true ∧ (HostEvent.command 0x000#12).harmless = true ∧
    (HostEvent.command 0x3FF#12).harmless = true ∧ HostEvent.idle.harmless = true := by decide

theorem witness_StoredKey : ∃ s t : State, (∀ e ∈ s.input, e.keepsKey = true) ∧ runAll s = .next t :=
  ⟨blockWith 1#32 49003#17 true [.command 0x100#12, .command 0x231#12], _, by decide, rfl⟩

theorem witness_Idempotent : ∀ b, Instr.rdkey ≠ .byte b := by decide

theorem witness_StepKeepsKeyInRange : ∃ s t : State, KeyInRange s ∧ step s = .next t :=
  ⟨blockWith 0x0001B10B#32 99999#17 true [.command 0x300#12], _, by decide, rfl⟩

theorem witness_StepKeepsTheSession : ∃ (s t : State) (g : Ghost), SessionHolds s g ∧ step s = .next t :=
  ⟨⟨0x7C231048#32, 49003#17, true, [.command 0x232#12], []⟩, _, ⟨[0x31#8], some []⟩,
    ⟨by decide, rfl, by decide⟩, rfl⟩

theorem witness_RunsFromReset : ∃ (es : List HostEvent) (t : State), es ≠ [] ∧
    runAll { State.reset with input := es } = .next t :=
  ⟨[.command 0x231#12, .command 0x300#12], _, by decide, rfl⟩

theorem witness_BitStep : (0x00000001#32).getLsbD 0 = true ∧ (0x80000000#32).getLsbD 0 = false ∧ 31 < 32 := by decide

theorem witness_OneChangedByte : (0x30#8 : Byte) ≠ 0x32#8 := by decide

theorem witness_FoldCarry : 2 ^ 32 ≤ foldSum 0xFFFF4195#32 ∧ ¬ 2 ^ 32 ≤ foldSum 0xFFFF4194#32 := by decide

theorem witness_EveryKey : 0 ≤ 99999 ∧ 5312 ≤ 99999 ∧ 5313 ≤ 99999 ∧ 72608 ≤ 99999 ∧ 72609 ≤ 99999 ∧ 99999 ≤ 99999 := by
  decide

theorem witness_Derive_invalid_serial : validSerial ['5', '4', '0', '3', '3', '6', '2', 'A'] = false := by decide

theorem witness_Derive_invalid_date : validSerial ['5', '4', '0', '3', '3', '6', '2', '0'] = true ∧
    validDate (['1', 'a'] ++ ['2', '6']) = false := by decide

theorem witness_Derive_valid : validSerial ['5', '4', '0', '3', '3', '6', '2', '0'] = true ∧
    validDate (['1', '2'] ++ ['2', '6']) = true := by decide

/-- spec/95_test_vectors.md V91 (message V3): with its `FOLD` executed and `RDKEY` still to come, the derivation is `Derived`. -/
theorem test_derivation_derived_after_fold :
    (runDerivation 11 (.held ['5', '4', '0', '3', '3', '6', '2', '0'] ['1', '2'] ['2', '6']) State.reset).map
      (fun x => (derivationState x.1, x.2.key, x.2.kv)) = some (.derived, 66668#17, true) := by decide +kernel

theorem witness_Derivation_valid : validSerial ['5', '4', '0', '3', '3', '6', '2', '0'] = true ∧
    validDate (['1', '2'] ++ ['2', '6']) = true ∧ 10 ≤ 10 ∧ 11 ≤ 11 ∧ 12 ≤ 12 := by decide

theorem witness_Derivation_rejected : (validSerial ['5', '4', '0', '3', '3', '6', '2', 'A'] = false ∨
    validDate (['1', '2'] ++ ['2', '6']) = false) ∧ 1 ≤ 1 ∧
    (validSerial ['5', '4', '0', '3', '3', '6', '2', '0'] = false ∨ validDate (['1', 'a'] ++ ['2', '6']) = false) := by decide

theorem witness_Derivation_terminal : derivationState (.issuing [0x500#12] true) ≠ .unvalidated ∧
    ∃ d t, advanceDerivation (.issuing [0x500#12] true) (blockWith 0x7C231048#32 49003#17 true []) = some (d, t) :=
  ⟨by decide, _, _, rfl⟩

theorem witness_Derivation_rejected_terminal : derivationState (.ended .invalidDate) = .rejected ∧
    advanceDerivation (.ended .invalidDate) State.reset = some (.ended .invalidDate, State.reset) := ⟨rfl, rfl⟩

theorem witness_KeyDepends : validSerial ['5', '4', '0', '3', '3', '6', '2', '0'] = true ∧
    validSerial ['0', '0', '0', '0', '3', '6', '2', '0'] = true ∧ validDate (['1', '2'] ++ ['2', '6']) = true ∧
    (['1', '2'] ++ ['2', '6'] : List Char) = ([] ++ ['1', '2', '2', '6']) ∧
    (['5', '4', '0', '3', '3', '6', '2', '0'].drop 4).take 4 = (['0', '0', '0', '0', '3', '6', '2', '0'].drop 4).take 4 := by
  decide

theorem witness_MkeyLine : ∃ ws, assembleListing [.mkey ['0', '0', '0', '0'] ['0', '0', '0', '0', '0', '6', '2', '2']] =
    some ws := ⟨_, rfl⟩

theorem witness_Instances : (0 < [State.reset, State.reset].length) ∧ (1 < [State.reset, State.reset].length) ∧
    (0 : Nat) ≠ 1 := by decide

/-- Open parameters for the witnesses: every latency 1 but that of `BYTE`, which is 8; a synchronous reset of one cycle,
asserted by 1. -/
def someParameters : OpenParameters := ⟨.bitwiseSerial, 1, 8, 1, 1, 1, .activeHigh, .synchronous, 1, 1, 1⟩

theorem witness_Ports : portReset.block.input = [] := rfl

theorem witness_Response_early : someParameters.WellFormed ∧ (PortIn.mk false true 0x231#12).rst = false ∧
    (PortIn.mk false true 0x231#12).cmdValid = true ∧
    (∀ i ∈ List.replicate 6 (PortIn.mk false true 0x100#12), i.rst = false) ∧ (PortIn.mk false true 0x100#12).rst = false ∧
    (List.replicate 6 (PortIn.mk false true 0x100#12)).length + 1 < latency someParameters 0x231#12 := by decide

theorem witness_Response_at_latency : someParameters.WellFormed ∧ (∀ i ∈ [PortIn.mk false false 0x000#12], i.rst = false) ∧
    ([] : List PortIn).length < someParameters.rspHold ∧ [PortIn.mk false false 0x000#12].length = someParameters.rspHold ∧ (PortIn.mk false true 0x231#12).rst = false ∧
    (PortIn.mk false true 0x231#12).cmdValid = true ∧
    (∀ i ∈ List.replicate 7 (PortIn.mk false false 0x000#12), i.rst = false) ∧
    (PortIn.mk false false 0x000#12).rst = false ∧
    (List.replicate 7 (PortIn.mk false false 0x000#12)).length + 1 = latency someParameters 0x231#12 := by decide

/-- A response that stays on the ports for two cycles. -/
def holdParameters : OpenParameters := ⟨.table, 1, 1, 1, 1, 1, .activeHigh, .synchronous, 1, 2, 1⟩

theorem witness_Response_in_hold : holdParameters.WellFormed ∧ (PortIn.mk false true 0x231#12).rst = false ∧
    (PortIn.mk false true 0x231#12).cmdValid = true ∧ ([] : List PortIn).length + 1 = latency holdParameters 0x231#12 ∧
    (∀ i ∈ [PortIn.mk false true 0x300#12], i.rst = false) ∧ 1 ≤ [PortIn.mk false true 0x300#12].length ∧
    [PortIn.mk false true 0x300#12].length < holdParameters.rspHold := by decide

theorem witness_NotReady :
    (portOutIn someParameters (PortIn.mk false true 0x100#12) ⟨State.reset, .executing 0x231#12 3, 0, 0⟩).cmdReady = false ∧
    (PortIn.mk false true 0x100#12).rst = (PortIn.mk false false 0x000#12).rst := by decide

theorem witness_NotReady_in_reset :
    (portOutIn someParameters (PortIn.mk true true 0x100#12) portReset).cmdReady = false ∧
    (PortIn.mk true true 0x100#12).rst = (PortIn.mk true false 0x000#12).rst := by decide

/-- An asynchronous reset of two cycles, asserted by 0. -/
def lowParameters : OpenParameters := ⟨.table, 1, 1, 1, 1, 1, .activeLow, .asynchronous, 2, 1, 1⟩

theorem witness_HeldReset_high : someParameters.rstMinCycles ≤ ([] : List InputPins).length + 1 ∧
    (∀ x ∈ [InputPins.mk true true 0x100#12], x.rst = (someParameters.rstPolarity == .activeHigh)) ∧
    (InputPins.mk false true 0x100#12).rst = (someParameters.rstPolarity == .activeLow) := by decide

theorem witness_HeldReset_low : lowParameters.rstMinCycles ≤ [InputPins.mk false true 0x100#12].length + 1 ∧
    (∀ x ∈ List.replicate 2 (InputPins.mk false true 0x100#12), x.rst = (lowParameters.rstPolarity == .activeHigh)) ∧
    (InputPins.mk true true 0x100#12).rst = (lowParameters.rstPolarity == .activeLow) := by decide

theorem witness_HeldReset_not_delivering : ∀ cw, portReset.phase ≠ .delivering cw := by intro cw h; cases h

theorem witness_Delivered :
    (portOutIn someParameters (PortIn.mk false false 0x000#12) ⟨State.reset, .delivering 0x300#12, 0, 0⟩).rspValid = true ∧
    (portOutIn someParameters (PortIn.mk true false 0x000#12) ⟨State.reset, .delivering 0x300#12, 0, 0⟩).rspValid = true := by
  decide

/-- spec/70_reset_and_hazards.md R186: an asynchronous reset in the first cycle of a response leaves none. -/
theorem witness_Cut_short :
    (portOutIn lowParameters (PortIn.mk true false 0x000#12) ⟨State.reset, .delivering 0x300#12, 1, 1⟩).rspValid = false ∧
    edgeEvents lowParameters (PortIn.mk true false 0x000#12) ⟨State.reset, .delivering 0x300#12, 1, 1⟩ =
      [.interrupted 0x300#12] := by decide

end Sys2Proof.Tests
end

section
/-! PROOFS. The state after reset (spec/10_state.md section 9). -/

namespace Sys2Proof.Machine

/-- Reset leaves the start value of the checksum in `R`, as step 1 of a message does (spec/10_state.md R32). -/
theorem reset_r : State.reset.r = crcInit := rfl

@[simp] theorem reset_key : State.reset.key = 0#17 := rfl

@[simp] theorem reset_kv : State.reset.kv = false := rfl

/-- No `INIT` is needed after reset: `crcreg` starts from the value reset leaves in `R`. -/
theorem absorbAll_reset_r (m : List Byte) : absorbAll State.reset.r m = crcreg m := by
  rw [reset_r, crcreg]

/-- Settles O1: the three reset values, and `absorbAll_reset_r` for a message without `INIT`. -/
theorem resetHoldsTheStatedValues : Obligations.ResetHoldsTheStatedValues :=
  ⟨reset_r, reset_key, reset_kv, absorbAll_reset_r⟩

end Sys2Proof.Machine
end

section
/-! PROOFS. Encoding and decoding (spec/30_encoding.md R60, R62, R65, R67; spec/60_exceptions.md R151, R152). -/

namespace Sys2Proof.Machine

/-! ## The two fields of a word (R60) -/

@[simp] theorem opField_assembleFields (f : CommandFields) : opField (assembleFields f) = f.op :=
  BitVec.extractLsb'_append_eq_left

@[simp] theorem imm8Field_assembleFields (f : CommandFields) : imm8Field (assembleFields f) = f.imm8 :=
  BitVec.extractLsb'_append_eq_right

theorem commandFields_assembleFields (f : CommandFields) : commandFields (assembleFields f) = f := by
  simp [commandFields]

theorem assembleFields_commandFields (cw : CommandWord) : assembleFields (commandFields cw) = cw :=
  (BitVec.extractLsb'_append_extractLsb'_eq_extractLsb' (len₂ := 4) rfl).trans BitVec.extractLsb'_eq_self

theorem commandFields_eq_iff (cw : CommandWord) (f : CommandFields) : commandFields cw = f ↔ cw = assembleFields f :=
  ⟨fun h => by rw [← h, assembleFields_commandFields], fun h => by rw [h, commandFields_assembleFields]⟩

/-- A word is the same thing as its pair of fields. -/
def wordFieldsEquiv : CommandWord ≃ Opcode × Byte where
  toFun cw := (opField cw, imm8Field cw)
  invFun x := assembleFields ⟨x.1, x.2⟩
  left_inv := assembleFields_commandFields
  right_inv x := by simp

@[simp] theorem wordFieldsEquiv_apply (cw : CommandWord) : wordFieldsEquiv cw = (opField cw, imm8Field cw) := rfl

/-- Words described by a set of operations and a set of operands are counted as pairs. -/
theorem card_words_of_fields {p : CommandWord → Prop} [DecidablePred p] (ops : Finset Opcode) (imms : Finset Byte)
    (h : ∀ cw, p cw ↔ opField cw ∈ ops ∧ imm8Field cw ∈ imms) :
    (Finset.univ.filter p).card = ops.card * imms.card := by
  rw [← Finset.card_product]
  exact Finset.card_equiv wordFieldsEquiv (by simp [h])

theorem card_bytes : (Finset.univ : Finset Byte).card = 256 :=
  (FinEnum.card_eq_fintypeCard (α := Byte)).symm

/-! ## The answers of the decoder (R65, R67) -/

/-- The operations whose operand must be zero (R65 (b)). -/
def zeroOperandOps : List Opcode :=
  [0x1#4, 0x3#4, 0x4#4, 0x5#4]

theorem mem_zeroOperandOps (op : Opcode) :
    op ∈ zeroOperandOps ↔ op = 0x1#4 ∨ op = 0x3#4 ∨ op = 0x4#4 ∨ op = 0x5#4 := by
  simp [zeroOperandOps]

/-- Every operation has one of three meanings in the map of R62. -/
theorem opcode_kinds : ∀ op : Opcode, op = 0x2#4 ∨ op ∈ zeroOperandOps ∨ op = 0x0#4 ∨ 0x6#4 ≤ op := by decide

theorem decode_of_byte (cw : CommandWord) (h : opField cw = 0x2#4) : decode cw = .command (.byte (imm8Field cw)) := by
  rw [decode, if_pos h]

theorem decode_of_illegalOpcode (cw : CommandWord) (h : opField cw = 0x0#4 ∨ 0x6#4 ≤ opField cw) :
    decode cw = .illegal .illegalOpcode := by
  have unassigned : ∀ op : Opcode, op = 0x0#4 ∨ 0x6#4 ≤ op →
      op ≠ 0x2#4 ∧ op ≠ 0x1#4 ∧ op ≠ 0x3#4 ∧ op ≠ 0x4#4 ∧ op ≠ 0x5#4 := by decide
  simp [decode, unassigned _ h]

theorem decode_of_illegalOperand (cw : CommandWord) (hop : opField cw ∈ zeroOperandOps)
    (himm : imm8Field cw ≠ 0x00#8) : decode cw = .illegal .illegalOperand := by
  rcases (mem_zeroOperandOps _).1 hop with h | h | h | h <;> simp [decode, h, himm]

theorem decode_of_commandFields (cw : CommandWord) (i : Instr) (h : commandFields cw = i.fields) :
    decode cw = .command i := by
  obtain ⟨hop, himm⟩ := CommandFields.mk.inj h
  cases i <;> simp_all [decode]

/-- A legal pair of fields without operand is the pair of a command. -/
theorem exists_fields_of_zero_operand (cw : CommandWord) (hop : opField cw ∈ zeroOperandOps)
    (himm : imm8Field cw = 0x00#8) : ∃ i : Instr, commandFields cw = i.fields := by
  rw [commandFields, himm]
  rcases (mem_zeroOperandOps _).1 hop with h | h | h | h <;> rw [h]
  exacts [⟨.init, rfl⟩, ⟨.fold, rfl⟩, ⟨.rdcrc, rfl⟩, ⟨.rdkey, rfl⟩]

/-- All that `decode` can answer, each answer with the fields that get it. -/
theorem decode_cases (cw : CommandWord) :
    (∃ i, decode cw = .command i ∧ commandFields cw = i.fields) ∨
      (decode cw = .illegal .illegalOpcode ∧ (opField cw = 0x0#4 ∨ 0x6#4 ≤ opField cw)) ∨
      (decode cw = .illegal .illegalOperand ∧ opField cw ∈ zeroOperandOps ∧ imm8Field cw ≠ 0x00#8) := by
  rcases opcode_kinds (opField cw) with hbyte | hzero | hnone
  · exact .inl ⟨_, decode_of_byte cw hbyte, by rw [commandFields, hbyte, Instr.fields]⟩
  · by_cases himm : imm8Field cw = 0x00#8
    · obtain ⟨i, hi⟩ := exists_fields_of_zero_operand cw hzero himm
      exact .inl ⟨i, decode_of_commandFields cw i hi, hi⟩
    · exact .inr (.inr ⟨decode_of_illegalOperand cw hzero himm, hzero, himm⟩)
  · exact .inr (.inl ⟨decode_of_illegalOpcode cw hnone, hnone⟩)

theorem decode_eq_command_iff (cw : CommandWord) (i : Instr) : decode cw = .command i ↔ commandFields cw = i.fields :=
  ⟨fun h => by simpa [h] using decode_cases cw, decode_of_commandFields cw i⟩

theorem decode_eq_illegalOpcode_iff (cw : CommandWord) :
    decode cw = .illegal .illegalOpcode ↔ opField cw = 0x0#4 ∨ 0x6#4 ≤ opField cw :=
  ⟨fun h => by simpa [h] using decode_cases cw, decode_of_illegalOpcode cw⟩

theorem decode_eq_illegalOperand_iff (cw : CommandWord) :
    decode cw = .illegal .illegalOperand ↔ opField cw ∈ zeroOperandOps ∧ imm8Field cw ≠ 0x00#8 :=
  ⟨fun h => by simpa [h] using decode_cases cw, fun ⟨hop, himm⟩ => decode_of_illegalOperand cw hop himm⟩

theorem decode_total (cw : CommandWord) : (∃ i, decode cw = .command i) ∨ decode cw = .illegal .illegalOpcode ∨
    decode cw = .illegal .illegalOperand := by
  obtain ⟨i, h, _⟩ | ⟨h, _⟩ | ⟨h, _⟩ := decode_cases cw
  · exact .inl ⟨i, h⟩
  · exact .inr (.inl h)
  · exact .inr (.inr h)

/-- The fields of the commands: an operation whose operand is zero as it must be, or `BYTE`. -/
theorem exists_command_iff (cw : CommandWord) : (∃ i, decode cw = .command i) ↔
    (opField cw ∈ zeroOperandOps ∧ imm8Field cw = 0x00#8) ∨ opField cw = 0x2#4 := by
  constructor
  · rintro ⟨i, hd⟩
    obtain ⟨hop, himm⟩ := CommandFields.mk.inj ((decode_eq_command_iff cw i).1 hd)
    rw [hop, himm]
    cases i with
    | byte imm8 => exact .inr rfl
    | init | fold | rdcrc | rdkey => exact .inl (by decide)
  · rintro (⟨hop, himm⟩ | hbyte)
    · obtain ⟨i, hi⟩ := exists_fields_of_zero_operand cw hop himm
      exact ⟨i, decode_of_commandFields cw i hi⟩
    · exact ⟨_, decode_of_byte cw hbyte⟩

/-! ## Illegal words (R65, R151, R152) -/

/-- 11 operations with any operand (R65 (a)). -/
theorem card_illegalOpcode :
    (Finset.univ.filter fun cw : CommandWord => decode cw = .illegal .illegalOpcode).card = 2816 := by
  rw [card_words_of_fields (Finset.univ.filter fun op => op = 0x0#4 ∨ 0x6#4 ≤ op) Finset.univ
    (by simp [decode_eq_illegalOpcode_iff]), card_bytes]
  rfl

/-- 4 operations with any operand but zero (R65 (b)). -/
theorem card_illegalOperand :
    (Finset.univ.filter fun cw : CommandWord => decode cw = .illegal .illegalOperand).card = 1020 := by
  rw [card_words_of_fields zeroOperandOps.toFinset (Finset.univ.erase 0x00#8)
    (by simp [decode_eq_illegalOperand_iff]), Finset.card_erase_of_mem (Finset.mem_univ _), card_bytes]
  rfl

/-- The step on an illegal word: the word is used up, the refusal is delivered, the registers stay (R157). -/
theorem step_of_illegal (s : State) (cw : CommandWord) (rest : List HostEvent) (code : RefusalCode)
    (hin : s.input = .command cw :: rest) (hd : decode cw = .illegal code) :
    step s = .next { s with input := rest, responses := s.responses ++ [refusalResponse code] } := by
  rw [step_of_event s _ rest hin, takeEvent, acceptWord_of_illegal cw code _ hd]
  exact congrArg _ (state_eq_of_fields _ _ rfl rfl rfl (by simp [hin]) rfl)

/-- Settles O7: the answers of the decoder by fields, their counts, and `step_of_illegal`. -/
theorem illegalWordsAreRefused : Obligations.IllegalWordsAreRefused :=
  ⟨decode_eq_illegalOpcode_iff, decode_eq_illegalOperand_iff, card_illegalOpcode, card_illegalOperand,
    decode_of_illegalOpcode _ (.inl rfl), decode_total, fun s cw rest hin =>
      ⟨step_of_illegal s cw rest .illegalOpcode hin, step_of_illegal s cw rest .illegalOperand hin⟩⟩

/-! ## The opcode map (R62) -/

/-- Under the mask of all ones exactly one word selects a row. -/
theorem selectsRow_of_full_mask (cw pattern : CommandWord) (m : String) :
    selectsRow cw ⟨m, pattern, 0xFFF#12⟩ = true ↔ cw = pattern := by
  have hand : cw &&& 0xFFF#12 = cw := BitVec.and_allOnes
  simp [selectsRow, hand]

/-- Under the mask of the field `op` the words of one operation select a row. -/
theorem selectsRow_of_op_mask (cw : CommandWord) (op : Opcode) (m : String) :
    selectsRow cw ⟨m, assembleFields ⟨op, 0x00#8⟩, 0xF00#12⟩ = true ↔ opField cw = op := by
  have hand : cw &&& 0xF00#12 = assembleFields ⟨opField cw, 0x00#8⟩ := calc
    cw &&& 0xF00#12 = (opField cw ++ imm8Field cw) &&& (BitVec.allOnes 4 ++ 0x00#8) := by
      congr 1
      exact (assembleFields_commandFields cw).symm
    _ = assembleFields ⟨opField cw, 0x00#8⟩ := by
      rw [BitVec.and_append, BitVec.and_allOnes, BitVec.and_zero, assembleFields]
  simp [selectsRow, hand, ← commandFields_eq_iff, commandFields]

/-- A command without operand: its row is selected by its word alone. -/
theorem selectsRow_of_fixed_command (cw : CommandWord) (j : Instr)
    (hj : ∀ i, mnemonicOf i = mnemonicOf j → i = j) :
    selectsRow cw ⟨mnemonicOf j, encode j, 0xFFF#12⟩ = true ↔
      ∃ i, decode cw = .command i ∧ mnemonicOf i = mnemonicOf j := by
  rw [selectsRow_of_full_mask, encode, ← commandFields_eq_iff, ← decode_eq_command_iff]
  exact ⟨fun h => ⟨j, h, rfl⟩, fun ⟨i, hd, hm⟩ => hj i hm ▸ hd⟩

/-- `BYTE`: its row is selected by each of its 256 words. -/
theorem selectsRow_of_byte_row (cw : CommandWord) : selectsRow cw ⟨"BYTE", 0x200#12, 0xF00#12⟩ = true ↔
    ∃ i, decode cw = .command i ∧ mnemonicOf i = "BYTE" := by
  refine (selectsRow_of_op_mask cw 0x2#4 "BYTE").trans
    ⟨fun h => ⟨_, decode_of_byte cw h, rfl⟩, fun ⟨i, hd, hm⟩ => ?_⟩
  have hop : opField cw = i.fields.op := congrArg CommandFields.op ((decode_eq_command_iff cw i).1 hd)
  cases i with
  | byte imm8 => exact hop
  | init | fold | rdcrc | rdkey => simp [mnemonicOf] at hm

/-- A row is selected exactly by the words of the command that it names. -/
theorem selectsRow_iff (cw : CommandWord) (row : OpcodeRow) (hrow : row ∈ opcodeRows) :
    selectsRow cw row = true ↔ ∃ i, decode cw = .command i ∧ mnemonicOf i = row.mnemonic := by
  simp only [opcodeRows, List.mem_cons, List.not_mem_nil, or_false] at hrow
  rcases hrow with rfl | rfl | rfl | rfl | rfl
  · exact selectsRow_of_fixed_command cw .init fun i => by cases i <;> simp [mnemonicOf]
  · exact selectsRow_of_byte_row cw
  · exact selectsRow_of_fixed_command cw .fold fun i => by cases i <;> simp [mnemonicOf]
  · exact selectsRow_of_fixed_command cw .rdcrc fun i => by cases i <;> simp [mnemonicOf]
  · exact selectsRow_of_fixed_command cw .rdkey fun i => by cases i <;> simp [mnemonicOf]

/-- Each command has one row. -/
theorem rows_of_mnemonic (i : Instr) : ∃ row, opcodeRows.filter (fun row => mnemonicOf i = row.mnemonic) = [row] := by
  cases i <;> exact ⟨_, rfl⟩

/-- The rows that a command's word selects are the rows with the command's mnemonic. -/
theorem selected_rows_of_command (cw : CommandWord) (i : Instr) (h : decode cw = .command i) :
    opcodeRows.filter (selectsRow cw) = opcodeRows.filter (fun row => mnemonicOf i = row.mnemonic) := by
  refine List.filter_congr fun row hrow => Bool.eq_iff_iff.2 ((selectsRow_iff cw row hrow).trans ?_)
  simp [h]

/-- An illegal word selects no row. -/
theorem selected_rows_of_illegal (cw : CommandWord) (code : RefusalCode) (h : decode cw = .illegal code) :
    opcodeRows.filter (selectsRow cw) = [] :=
  List.filter_eq_nil_iff.2 fun row hrow => by simp [selectsRow_iff cw row hrow, h]

/-- No two rows overlap. -/
theorem selected_rows_length_le_one (cw : CommandWord) : (opcodeRows.filter (selectsRow cw)).length ≤ 1 := by
  cases h : decode cw with
  | command i =>
    obtain ⟨row, hrow⟩ := rows_of_mnemonic i
    rw [selected_rows_of_command cw i h, hrow, List.length_singleton]
  | illegal code => simp [selected_rows_of_illegal cw code h]

/-- The words that select a row are the words of the commands: every command has a row. -/
theorem exists_row_iff (cw : CommandWord) :
    (∃ row ∈ opcodeRows, selectsRow cw row = true) ↔ ∃ i, decode cw = .command i := by
  constructor
  · rintro ⟨row, hrow, hsel⟩
    obtain ⟨i, hd, _⟩ := (selectsRow_iff cw row hrow).1 hsel
    exact ⟨i, hd⟩
  · rintro ⟨i, hd⟩
    obtain ⟨row, hrow⟩ := rows_of_mnemonic i
    have hmem : row ∈ opcodeRows.filter (selectsRow cw) := by simp [selected_rows_of_command cw i hd, hrow]
    exact ⟨row, List.mem_filter.1 hmem⟩

theorem illegal_of_no_row (cw : CommandWord) (h : ∀ row ∈ opcodeRows, selectsRow cw row = false) :
    ∃ code, decode cw = .illegal code := by
  cases hd : decode cw with
  | command i =>
    obtain ⟨row, hrow, hsel⟩ := (exists_row_iff cw).2 ⟨i, hd⟩
    exact absurd hsel (by simp [h row hrow])
  | illegal code => exact ⟨code, rfl⟩

/-- 4 operations with the operand zero, and `BYTE` with any operand. -/
theorem card_defined : (Finset.univ.filter fun cw : CommandWord =>
    ∃ row ∈ opcodeRows, selectsRow cw row = true).card = 260 := by
  have hdisj : Disjoint (Finset.univ.filter fun cw => opField cw ∈ zeroOperandOps ∧ imm8Field cw = 0x00#8)
      (Finset.univ.filter fun cw => opField cw = 0x2#4) :=
    Finset.disjoint_filter.2 fun cw _ hzero hbyte => absurd hzero.1 (by rw [hbyte]; decide)
  rw [Finset.filter_congr fun cw _ => (exists_row_iff cw).trans (exists_command_iff cw), Finset.filter_or,
    Finset.card_union_of_disjoint hdisj, card_words_of_fields zeroOperandOps.toFinset {0x00#8} (by simp),
    card_words_of_fields {0x2#4} Finset.univ (by simp), card_bytes]
  rfl

/-- Settles O6: `selectsRow_iff` in both directions, the rows by mnemonic, and the count. -/
theorem decoderFollowsTheOpcodeMap : Obligations.DecoderFollowsTheOpcodeMap :=
  ⟨fun cw row hrow => (selectsRow_iff cw row hrow).1, illegal_of_no_row, selected_rows_length_le_one, rfl, card_defined⟩

end Sys2Proof.Machine
end

section
/-! PROOFS. The Checksum Engine: the bit step and the byte step (spec/40_checksum_engine.md R80, R81), and the commands
`INIT`, `BYTE` and `RDCRC` (R82 to R84). -/

namespace Sys2Proof.Machine

/-! ## The bit step (R80) -/

theorem step1_of_low_bit_set (r : Word) (h : r.getLsbD 0 = true) : step1 r = (r >>> 1) ^^^ poly := by
  rw [step1, if_pos h]

theorem step1_of_low_bit_clear (r : Word) (h : r.getLsbD 0 = false) : step1 r = r >>> 1 := by
  rw [step1, if_neg (ne_true_of_eq_false h)]

/-- One bit of the result: the bit above it, flipped where `POLY` has a bit when the bit dropped was 1. The bit above
bit 31 reads as 0, which is what the logical shift brings in. -/
theorem getLsbD_step1 (r : Word) (i : Nat) :
    (step1 r).getLsbD i = (r.getLsbD (i + 1) ^^ (r.getLsbD 0 && poly.getLsbD i)) := by
  have hshift : (r >>> 1).getLsbD i = r.getLsbD (i + 1) := by rw [BitVec.getLsbD_ushiftRight, Nat.add_comm]
  cases hlow : r.getLsbD 0 with
  | true => rw [step1_of_low_bit_set r hlow, BitVec.getLsbD_xor, hshift, Bool.true_and]
  | false => rw [step1_of_low_bit_clear r hlow, hshift, Bool.false_and, Bool.xor_false]

/-- Settles O29: the two cases of the test, `getLsbD_step1` for the bits, and the five worked examples. -/
theorem bitStepShiftsAndFlips : Obligations.BitStepShiftsAndFlips := by
  refine ⟨step1_of_low_bit_set, step1_of_low_bit_clear, fun r i hi => ?_, by decide⟩
  have htop : (decide (i < 31) && r.getLsbD (i + 1)) = r.getLsbD (i + 1) := by
    by_cases h : i < 31
    · simp [h]
    · have hbit : r.getLsbD (i + 1) = false := BitVec.getLsbD_of_ge r (i + 1) (by omega)
      simp [hbit]
  rw [htop, getLsbD_step1, poly]

/-! ## The byte step (R81) -/

theorem bitSteps_eq_iterate (n : Nat) (r : Word) : bitSteps n r = step1^[n] r := by
  induction n generalizing r with
  | zero => rfl
  | succ n ih => rw [bitSteps_succ, ih, Function.iterate_succ_apply]

theorem absorb_eq_iterate (r : Word) (b : Byte) : absorb r b = step1^[8] (r ^^^ byteOperand b) := by
  rw [absorb, bitSteps_eq_iterate]

/-- The bits above the operand are zero (R61). -/
theorem high_bits_byteOperand (b : Byte) : (byteOperand b).extractLsb' 8 24 = 0#24 := by
  ext i hi
  simp [byteOperand]

theorem low_bits_byteOperand (b : Byte) : (byteOperand b).extractLsb' 0 8 = b := by
  ext i hi
  have hi32 : i < 32 := by omega
  simp [byteOperand, hi, hi32]

theorem high_bits_xor_byteOperand (r : Word) (b : Byte) :
    (r ^^^ byteOperand b).extractLsb' 8 24 = r.extractLsb' 8 24 := by
  rw [BitVec.extractLsb'_xor, high_bits_byteOperand, BitVec.xor_zero]

theorem low_bits_xor_byteOperand (r : Word) (b : Byte) :
    (r ^^^ byteOperand b).extractLsb' 0 8 = r.extractLsb' 0 8 ^^^ b := by
  rw [BitVec.extractLsb'_xor, low_bits_byteOperand]

/-- Settles O30: `absorb` as an iterate, the XOR by its high and its low bits, and the rule's trace. -/
theorem byteStepIsEightBitSteps : Obligations.ByteStepIsEightBitSteps :=
  ⟨absorb_eq_iterate, fun r b => ⟨high_bits_xor_byteOperand r b, low_bits_xor_byteOperand r b⟩, by decide, by decide⟩

/-! ## The commands (R82 to R84) -/

/-- A word of an operation whose operand must be zero, with another operand (R152). -/
theorem decode_append_of_illegalOperand (op : Opcode) (x : Byte) (hop : op ∈ zeroOperandOps) (hx : x ≠ 0x00#8) :
    decode (op ++ x) = .illegal .illegalOperand :=
  decode_of_illegalOperand (assembleFields ⟨op, x⟩) (by rwa [opField_assembleFields])
    (by rwa [imm8Field_assembleFields])

theorem eq_of_exec_init {s t : State} (h : exec .init s = .next t) : t = respond 0#32 (writeR crcInit s) :=
  (Host.Outcome.next.inj ((exec_init s).symm.trans h)).symm

theorem eq_of_exec_rdcrc {s t : State} (h : exec .rdcrc s = .next t) :
    t = respond (checksumOut Config.hardware s.r) s :=
  (Host.Outcome.next.inj ((exec_rdcrc s).symm.trans h)).symm

/-- `INIT` changes no register when `R` holds the start value already, as it does after reset and after `INIT`. -/
theorem sameRegisters_of_exec_init {s t : State} (hr : s.r = crcInit) (h : exec .init s = .next t) :
    SameRegisters s t := by
  rw [eq_of_exec_init h]
  exact ⟨hr, rfl, rfl⟩

/-- Settles O14: `exec_init`, the illegal words, and `sameRegisters_of_exec_init` for both corner cases. -/
theorem initStartsANewMessage : Obligations.InitStartsANewMessage := by
  refine ⟨exec_init, by decide, fun x => decode_append_of_illegalOperand _ x (by decide), fun s t u ht hu => ?_,
    fun s t hr => sameRegisters_of_exec_init (hr.trans reset_r)⟩
  have htr : t.r = crcInit := by rw [eq_of_exec_init ht, respond_r, writeR_r]
  exact sameRegisters_of_exec_init htr hu

/-- The fields of a `BYTE` word do not overlap, so the word is their sum (R62). -/
theorem encode_byte (b : Byte) : encode (.byte b) = 0x200#12 + b.setWidth 12 := by
  have hb : b.toNat < 256 := b.isLt
  apply BitVec.eq_of_toNat_eq
  calc (0x2#4 ++ b).toNat = 2 * 2 ^ 8 + b.toNat := by
        rw [BitVec.toNat_append, ← Nat.shiftLeft_add_eq_or_of_lt b.isLt, Nat.shiftLeft_eq]; rfl
    _ = (0x200#12 + b.setWidth 12).toNat := by
        rw [BitVec.toNat_add, BitVec.toNat_setWidth, BitVec.toNat_ofNat]; omega

/-- Each byte `0xFF` cancels the eight ones at the bottom, and the eight bit steps only shift. -/
theorem absorbAll_ones_of_four_ones :
    absorbAll 0xFFFFFFFF#32 [0xFF#8, 0xFF#8, 0xFF#8, 0xFF#8] = 0x00000000#32 := by
  have h1 : absorb 0xFFFFFFFF#32 0xFF#8 = 0x00FFFFFF#32 := by decide
  have h2 : absorb 0x00FFFFFF#32 0xFF#8 = 0x0000FFFF#32 := by decide
  have h3 : absorb 0x0000FFFF#32 0xFF#8 = 0x000000FF#32 := by decide
  have h4 : absorb 0x000000FF#32 0xFF#8 = 0x00000000#32 := by decide
  simp only [absorbAll_cons, absorbAll_nil, h1, h2, h3, h4]

/-- Settles O15: `exec_byte`, `encode_byte`, and the worked values. -/
theorem byteAbsorbsOneByte : Obligations.ByteAbsorbsOneByte :=
  ⟨exec_byte, encode_byte, by decide, by decide, by decide, absorbAll_ones_of_four_ones⟩

/-- What `RDCRC` answers, and that it leaves `R` uncomplemented. -/
theorem response_of_exec_rdcrc {s t : State} (h : exec .rdcrc s = .next t) :
    t.r = s.r ∧ t.responses.getLast? = some ⟨true, checksumOut Config.hardware s.r⟩ := by
  rw [eq_of_exec_rdcrc h]
  exact ⟨rfl, by rw [respond_responses, List.getLast?_concat]⟩

theorem checksumOut_allOnes : checksumOut Config.hardware 0xFFFFFFFF#32 = 0x00000000#32 := BitVec.xor_self

/-- Settles O16: `exec_rdcrc`, the illegal words, and `response_of_exec_rdcrc` for a second `RDCRC`. -/
theorem rdcrcReturnsTheComplement : Obligations.RdcrcReturnsTheComplement := by
  refine ⟨exec_rdcrc, by decide, fun x => decode_append_of_illegalOperand _ x (by decide), fun s hr => ?_,
    fun s t u ht hu => ?_, by decide⟩
  · have hout : checksumOut Config.hardware s.r = 0x00000000#32 := by rw [hr, checksumOut_allOnes]
    rw [exec_rdcrc, hout]
    rfl
  · obtain ⟨hr, hfirst⟩ := response_of_exec_rdcrc ht
    obtain ⟨_, hsecond⟩ := response_of_exec_rdcrc hu
    rw [hsecond, hfirst, hr]

end Sys2Proof.Machine
end

section
/-! PROOFS. The folding unit: its function (spec/41_folding_unit.md R100) and the commands `FOLD` and `RDKEY` (R103,
R104). -/

namespace Sys2Proof.Machine

/-! ## The function of the folding unit (R100) -/

theorem foldSum_eq (c : Word) : foldSum c = (foldMask c).toNat + 5313 := rfl

/-- The sum is exact: the largest one is above 2^32. -/
theorem foldSum_bounds (c : Word) : 5313 ≤ foldSum c ∧ foldSum c ≤ 4294972608 := by
  have hmask : (foldMask c).toNat < 2 ^ 32 := (foldMask c).isLt
  rw [foldSum_eq]
  omega

theorem foldKey_toNat_le (c : Word) : (foldKey c).toNat ≤ 99999 := by
  rw [foldKey_toNat]
  exact Nat.le_of_lt_succ (Nat.mod_lt _ (by decide))

/-- `KEY_MASK` has its ones at the odd places of the low half, and none above bit 31. -/
theorem getLsbD_keyMask (i : Nat) : keyMask.getLsbD i = decide (i ∈ [15, 13, 11, 9, 7, 5, 3, 1]) := by
  by_cases hi : i < 32
  · have hlow : ∀ j < 32, keyMask.getLsbD j = decide (j ∈ [15, 13, 11, 9, 7, 5, 3, 1]) := by decide
    exact hlow i hi
  · have hnotMem : i ∉ [15, 13, 11, 9, 7, 5, 3, 1] := fun h =>
      hi ((by decide : ∀ j ∈ [15, 13, 11, 9, 7, 5, 3, 1], j < 32) i h)
    rw [BitVec.getLsbD_of_ge _ _ (Nat.le_of_not_lt hi), decide_eq_false hnotMem]

theorem getLsbD_foldMask (c : Word) (i : Nat) :
    (foldMask c).getLsbD i = (c.getLsbD i ^^ decide (i ∈ [15, 13, 11, 9, 7, 5, 3, 1])) := by
  rw [foldMask, BitVec.getLsbD_xor, getLsbD_keyMask]

/-- Adding before the XOR gives another key for the checksum 0: 48747 where `fold` gives 49003. -/
theorem add_before_xor_ne_foldKey :
    ((0x00000000#32 + 0x000014C1#32) ^^^ 0x0000AAAA#32).toNat % 100000 ≠ (foldKey 0x00000000#32).toNat := by decide

/-- Settles O39: the three steps, their bounds, the bits of the mask, and the checksum 0 for the order. -/
theorem foldIsXorAddReduce : Obligations.FoldIsXorAddReduce :=
  ⟨fun c => ⟨rfl, foldSum_eq c, foldKey_toNat c⟩,
    fun c => ⟨(foldSum_bounds c).1, (foldSum_bounds c).2, foldKey_toNat_le c⟩,
    getLsbD_foldMask, ⟨_, add_before_xor_ne_foldKey⟩, by decide⟩

/-! ## The commands (R103, R104) -/

/-- The key that `FOLD` stores, in the three steps of R100 on the complement of `R`. -/
theorem foldKey_checksumOut (r : Word) : foldKey (checksumOut Config.hardware r) =
    BitVec.ofNat 17 ((((r ^^^ 0xFFFFFFFF#32) ^^^ 0x0000AAAA#32).toNat + 0x14C1) % 100000) := by
  rw [foldKey, foldSum_eq, foldMask, checksumOut, Config.hardware, keyMask, keyMod]

/-- All that storing a key and answering does to the state, for any key: the frame of `FOLD`. -/
theorem respond_setKeyValid_writeKey (v : Word) (k : KeyWord) (s : State) :
    respond v (setKeyValid (writeKey k s)) =
      { s with key := k, kv := true, responses := s.responses ++ [⟨true, v⟩] } :=
  rfl

/-- What `FOLD` stores, and that it leaves `R` uncomplemented. -/
theorem registers_of_exec_fold {s t : State} (h : exec .fold s = .next t) :
    t.r = s.r ∧ t.key = foldKey (checksumOut Config.hardware s.r) := by
  obtain rfl := Host.Outcome.next.inj ((exec_fold s).symm.trans h)
  simp

/-- The key that `FOLD` stores when `R` is known, as after a fixed message. -/
theorem key_of_exec_fold {s t : State} {r : Word} (hr : s.r = r) (h : exec .fold s = .next t) :
    t.key = foldKey (checksumOut Config.hardware r) := by
  rw [(registers_of_exec_fold h).2, hr]

/-- The checksum of the empty message is 0, and its key 49003. -/
theorem foldKey_of_empty_message : foldKey (checksumOut Config.hardware 0xFFFFFFFF#32) = 49003#17 := by
  rw [checksumOut_allOnes]
  decide

/-- The worked example: the checksum `0xCBF43926` of the message `123456789`. -/
theorem foldKey_of_worked_example : foldKey (checksumOut Config.hardware 0x340BC6D9#32) = 8717#17 := by decide

/-- Settles O17: `exec_fold` with its frame and `foldKey_checksumOut`, the illegal words, and `key_of_exec_fold` for the two
fixed keys and a second `FOLD`. -/
theorem foldStoresTheKey : Obligations.FoldStoresTheKey := by
  refine ⟨fun s => ?_, by decide, fun x => decode_append_of_illegalOperand _ x (by decide), fun s t hr ht => ?_,
    fun s t u ht hu => ?_, fun s t hr ht => ?_⟩
  · rw [exec_fold, respond_setKeyValid_writeKey, foldKey_checksumOut]
  · exact (key_of_exec_fold hr ht).trans foldKey_of_empty_message
  · obtain ⟨hr, hkey⟩ := registers_of_exec_fold ht
    exact (key_of_exec_fold hr hu).trans hkey.symm
  · exact (key_of_exec_fold hr ht).trans foldKey_of_worked_example

/-- The zero-extension keeps the value of the key. -/
theorem toNat_keyOut (key : KeyWord) : (keyOut key).toNat = key.toNat :=
  BitVec.toNat_setWidth_of_le (by decide)

/-- The bits above the key are zero. -/
theorem high_bits_keyOut (key : KeyWord) : (keyOut key).extractLsb' 17 15 = 0#15 := by
  ext i hi
  simp [keyOut]

/-- Settles O18: `exec_rdkey` for both values of `KV`, the illegal words, and the value of `keyOut`. -/
theorem rdkeyReadsTheStoredKey : Obligations.RdkeyReadsTheStoredKey :=
  ⟨exec_rdkey_of_valid, exec_rdkey_of_not_valid, by decide,
    fun x => decode_append_of_illegalOperand _ x (by decide),
    fun s ⟨hle, _⟩ => (toNat_keyOut s.key).trans_le hle, fun s => high_bits_keyOut s.key, by decide⟩

end Sys2Proof.Machine
end

section
/-! PROOFS. The validation of the inputs of `DERIVE` and its two rejections (spec/42_host_sequences.md R120 to R122, R124;
spec/60_exceptions.md R160, R161, R163). -/

namespace Sys2Proof.Machine

/-! ## What the two validations refuse (R121, R122) -/

theorem allDigits_of_nondigit {text : List Char} {c : Char} (hmem : c ∈ text) (hc : c ∉ digitAlphabet) :
    allDigits text = false :=
  List.all_eq_false.2 ⟨c, hmem, by rwa [List.contains_iff_mem]⟩

theorem validSerial_of_length_ne {serial : List Char} (h : serial.length ≠ 8) : validSerial serial = false := by
  rw [validSerial, serialLen, beq_eq_false_iff_ne.2 h, Bool.false_and]

theorem validSerial_of_nondigit {serial : List Char} {c : Char} (hmem : c ∈ serial) (hc : c ∉ digitAlphabet) :
    validSerial serial = false := by
  rw [validSerial, allDigits_of_nondigit hmem hc, Bool.and_false]

theorem validDate_of_length_ne {date : List Char} (h : date.length ≠ 4) : validDate date = false := by
  rw [validDate, dateLen, beq_eq_false_iff_ne.2 h, Bool.false_and]

/-! ## How `DERIVE` rejects (R120, R124) -/

/-- The serial number is checked first, so the date does not matter. -/
theorem deriveMasterKey_of_invalid_serial {serial : List Char} (h : validSerial serial = false) (month day : List Char)
    (s : State) : deriveMasterKey serial month day s = some (s, .invalidSerialNumber) := by
  simp [deriveMasterKey, h]

theorem deriveMasterKey_of_invalid_date {serial month day : List Char} (hserial : validSerial serial = true)
    (hdate : validDate (month ++ day) = false) (s : State) :
    deriveMasterKey serial month day s = some (s, .invalidDate) := by
  simp [deriveMasterKey, hserial, hdate]

/-- Settles O47: a serial number too short, one with the letter `A`, and a date too short after a valid serial number. -/
theorem rejectionScenarios : Obligations.RejectionScenarios := by
  intro s
  refine ⟨deriveMasterKey_of_invalid_serial ?_ _ _ s, deriveMasterKey_of_invalid_serial ?_ _ _ s,
    deriveMasterKey_of_invalid_date ?_ ?_ s⟩
  · exact validSerial_of_length_ne (by decide)
  · exact validSerial_of_nondigit (c := 'A') (by decide) (by decide)
  · decide
  · exact validDate_of_length_ne (by decide)

end Sys2Proof.Machine
end

section
/-! PROOFS. Decoding gives back what was encoded (spec/30_encoding.md R60, R62, R67, R68). -/

namespace Sys2Proof.Machine

/-- A command has one word: the one that carries its fields. -/
theorem decode_eq_command_iff_encode (i : Instr) (cw : CommandWord) : decode cw = .command i ↔ cw = encode i :=
  (decode_eq_command_iff cw i).trans (commandFields_eq_iff cw i.fields)

@[simp] theorem decode_encode (i : Instr) : decode (encode i) = .command i :=
  (decode_eq_command_iff_encode i _).2 rfl

/-- Settles O5: a word and a command have the same fields exactly when the word is assembled from the command's. -/
theorem decodeAndEncodeAgree : Obligations.DecodeAndEncodeAgree :=
  decode_eq_command_iff_encode

/-- Settles O8: the words of the five commands are their encodings, and the boundary words are refused by their fields. -/
theorem writtenWordsDecode : Obligations.WrittenWordsDecode :=
  ⟨decode_encode .init, decode_encode (.byte 0x00#8), decode_encode (.byte 0x31#8), decode_encode (.byte 0xFF#8),
    decode_encode .fold, decode_encode .rdcrc, decode_encode .rdkey,
    decode_of_illegalOpcode _ (by decide), decode_of_illegalOperand _ (by decide) (by decide),
    decode_of_illegalOperand _ (by decide) (by decide), decode_of_illegalOperand _ (by decide) (by decide),
    decode_of_illegalOperand _ (by decide) (by decide), decode_of_illegalOpcode _ (by decide),
    decode_of_illegalOpcode _ (by decide)⟩

end Sys2Proof.Machine
end

section
/-! PROOFS. The machine as a function: a command and an interaction always answer a next state
(spec/60_exceptions.md section 1; spec/70_reset_and_hazards.md R193, R195). -/

namespace Sys2Proof.Machine

/-- The next state that an outcome holds, `s` where it holds none. -/
def nextOr (s : State) : Host.Outcome State Fault Refusal → State
  | .next t => t
  | .fault _ => s
  | .refused _ => s

/-- The state after a command; it is what `exec` answers (`exec_eq_next`). -/
def execNext (i : Instr) (s : State) : State :=
  nextOr s (exec i s)

/-- The state after an interaction; it is what `takeEvent` answers (`takeEvent_eq_next`). -/
def eventNext (e : HostEvent) (s : State) : State :=
  nextOr s (takeEvent e s)

theorem exec_eq_next (i : Instr) (s : State) : exec i s = .next (execNext i s) := by
  obtain ⟨t, _, he, _⟩ := exec_cases i s
  rw [execNext, he, nextOr]

theorem takeEvent_eq_next (e : HostEvent) (s : State) : takeEvent e s = .next (eventNext e s) := by
  obtain ⟨t, he, _⟩ := takeEvent_cases e s
  rw [eventNext, he, nextOr]

theorem eq_execNext {i : Instr} {s t : State} (h : exec i s = .next t) : t = execNext i s :=
  Host.Outcome.next.inj (h.symm.trans (exec_eq_next i s))

/-! ## One equation per command and per interaction -/

@[simp] theorem execNext_init (s : State) : execNext .init s = respond 0#32 (writeR crcInit s) := rfl

@[simp] theorem execNext_byte (b : Byte) (s : State) :
    execNext (.byte b) s = respond 0#32 (writeR (absorb s.r b) s) := rfl

@[simp] theorem execNext_fold (s : State) : execNext .fold s =
    respond 0#32 (setKeyValid (writeKey (foldKey (checksumOut Config.hardware s.r)) s)) := rfl

@[simp] theorem execNext_rdcrc (s : State) :
    execNext .rdcrc s = respond (checksumOut Config.hardware s.r) s := rfl

/-- What `RDKEY` answers. -/
def keyResponse (s : State) : Response :=
  if s.kv then ⟨true, keyOut s.key⟩ else refusalResponse .keyNotValid

/-- `RDKEY` only delivers a response, whatever `KV` is. -/
@[simp] theorem execNext_rdkey (s : State) : execNext .rdkey s = deliver (keyResponse s) s := by
  rw [execNext, exec_rdkey, nextOr, keyResponse]
  split <;> rfl

theorem keyResponse_of_valid {s : State} (h : s.kv = true) : keyResponse s = ⟨true, keyOut s.key⟩ := by
  rw [keyResponse, if_pos h]

/-- What `RDKEY` answers depends on the stored key and its flag alone. -/
theorem keyResponse_congr {s t : State} (hkey : s.key = t.key) (hkv : s.kv = t.kv) : keyResponse s = keyResponse t := by
  rw [keyResponse, keyResponse, hkey, hkv]

theorem eventNext_of_command {cw : CommandWord} {i : Instr} (hd : decode cw = .command i) (s : State) :
    eventNext (.command cw) s = execNext i s := by
  rw [eventNext, takeEvent, acceptWord_of_command cw i s hd, execNext]

theorem eventNext_of_illegal {cw : CommandWord} {code : RefusalCode} (hd : decode cw = .illegal code) (s : State) :
    eventNext (.command cw) s = refuse code s := by
  rw [eventNext, takeEvent, acceptWord_of_illegal cw code s hd, nextOr]

@[simp] theorem eventNext_encode (i : Instr) (s : State) : eventNext (.command (encode i)) s = execNext i s :=
  eventNext_of_command (decode_encode i) s

@[simp] theorem eventNext_reset (s : State) : eventNext .reset s = resetRegisters s := rfl

@[simp] theorem eventNext_interrupted (cw : CommandWord) (s : State) :
    eventNext (.interrupted cw) s = resetRegisters s := rfl

@[simp] theorem eventNext_idle (s : State) : eventNext .idle s = s := rfl

/-- To show something of every interaction, show it of a command's word, an illegal word, the two resets and idleness. -/
theorem forall_event {P : HostEvent → Prop} (command : ∀ cw i, decode cw = .command i → P (.command cw))
    (illegal : ∀ cw code, decode cw = .illegal code → P (.command cw)) (reset : P .reset)
    (interrupted : ∀ cw, P (.interrupted cw)) (idle : P .idle) : ∀ e, P e
  | .command cw =>
    match hd : decode cw with
    | .command i => command cw i hd
    | .illegal code => illegal cw code hd
  | .reset => reset
  | .interrupted cw => interrupted cw
  | .idle => idle

/-! ## The host's stream is the step's alone -/

/-- No command reads or writes the host's coming interactions. -/
theorem execNext_with_input (i : Instr) (s : State) (es : List HostEvent) :
    execNext i { s with input := es } = { execNext i s with input := es } := by
  cases i with
  | rdkey => rw [execNext_rdkey, execNext_rdkey]; rfl
  | init | byte b | fold | rdcrc => rfl

theorem eventNext_with_input (e : HostEvent) (s : State) (es : List HostEvent) :
    eventNext e { s with input := es } = { eventNext e s with input := es } := by
  induction e using forall_event with
  | command cw i hd => rw [eventNext_of_command hd, eventNext_of_command hd, execNext_with_input]
  | illegal cw code hd => rw [eventNext_of_illegal hd, eventNext_of_illegal hd]; rfl
  | reset | interrupted cw | idle => rfl

@[simp] theorem execNext_input (i : Instr) (s : State) : (execNext i s).input = s.input := by
  have h := congrArg State.input (execNext_with_input i s s.input)
  exact h

@[simp] theorem eventNext_input (e : HostEvent) (s : State) : (eventNext e s).input = s.input := by
  have h := congrArg State.input (eventNext_with_input e s s.input)
  exact h

/-! ## One response for each answered interaction -/

theorem exists_response_of_execNext (i : Instr) (s : State) :
    ∃ rsp, (execNext i s).responses = s.responses ++ [rsp] := by
  obtain ⟨t, rsp, he, _, hrsp, _⟩ := exec_cases i s
  exact ⟨rsp, eq_execNext he ▸ hrsp⟩

theorem exists_response_of_word (cw : CommandWord) (s : State) :
    ∃ rsp, (eventNext (.command cw) s).responses = s.responses ++ [rsp] := by
  cases hd : decode cw with
  | command i => rw [eventNext_of_command hd]; exact exists_response_of_execNext i s
  | illegal code => rw [eventNext_of_illegal hd]; exact ⟨_, refuse_responses code s⟩

theorem responses_of_eventNext (e : HostEvent) (s : State) : ∃ new, (eventNext e s).responses = s.responses ++ new ∧
    new.length = if e.answered = true then 1 else 0 := by
  cases e with
  | command cw =>
    obtain ⟨rsp, h⟩ := exists_response_of_word cw s
    exact ⟨[rsp], h, rfl⟩
  | reset | interrupted cw | idle => exact ⟨[], (List.append_nil _).symm, rfl⟩

/-! ## The step -/

theorem dropEvent_of_input {s : State} {e : HostEvent} {rest : List HostEvent} (h : s.input = e :: rest) :
    dropEvent s = { s with input := rest } := by
  rw [dropEvent, h, List.tail_cons]

theorem step_of_input {s : State} {e : HostEvent} {rest : List HostEvent} (h : s.input = e :: rest) :
    step s = .next { eventNext e s with input := rest } := by
  rw [step_of_event s e rest h, dropEvent_of_input h, takeEvent_eq_next, eventNext_with_input]

/-- All that a step can do: with nothing to come it answers the same state, and otherwise the state after the next
interaction. -/
theorem step_cases {s t : State} (h : step s = .next t) : (s.input = [] ∧ t = s) ∨
    ∃ e rest, s.input = e :: rest ∧ t = { eventNext e s with input := rest } := by
  cases hin : s.input with
  | nil => exact .inl ⟨rfl, Host.Outcome.next.inj (h.symm.trans (step_of_no_event s hin))⟩
  | cons e rest => exact .inr ⟨e, rest, rfl, Host.Outcome.next.inj (h.symm.trans (step_of_input hin))⟩

/-- Settles O2: the step on a reset is `resetRegisters` with the reset taken off the stream. -/
theorem resetEventRestoresTheRegisters : Obligations.ResetEventRestoresTheRegisters :=
  fun _ _ hin => ⟨_, step_of_input hin, rfl, rfl, rfl, rfl, rfl⟩

/-- A whole command and then a reset: the registers are those of reset, whatever the command was. -/
theorem run_command_then_reset (cw : CommandWord) (rest : List HostEvent) (s : State) :
    Host.Core.run Sys2Proof.core 2 (offer (.command cw) (offer .reset { s with input := rest })) =
      .next { resetRegisters (eventNext (.command cw) s) with input := rest } := by
  have hcommand : step (offer (.command cw) (offer .reset { s with input := rest })) =
      .next (offer .reset { eventNext (.command cw) s with input := rest }) := by
    rw [step_offer, takeEvent_eq_next]
    exact congrArg _ (eventNext_with_input (.command cw) s (.reset :: rest))
  rw [run_succ_of_step 1 _ _ hcommand, run_succ_of_step 0 _ _ (step_offer _ _)]
  rfl

/-- Settles O4: a command cut short is the same interaction as a reset, and a reset after the whole command leaves the same
registers. -/
theorem interruptedCommandLeavesTheResetState : Obligations.InterruptedCommandLeavesTheResetState := by
  intro s cw rest
  refine ⟨_, rfl, rfl, rfl, rfl, rfl, rfl, rfl, _, run_command_then_reset cw rest s, ⟨rfl, rfl, rfl⟩, rfl⟩

/-- Settles O9: the step takes the word off the stream and accepts it, and accepting a command's word is `exec`. -/
theorem stepRunsTheDecodedCommand : Obligations.StepRunsTheDecodedCommand := by
  intro s cw rest i hin _ hd
  rw [step_of_event s _ rest hin, takeEvent, acceptWord_of_command cw i _ hd, dropEvent_of_input hin]

theorem decodeTableWord_eq_some {nbits w : Nat} {i : Instr} (h : decodeTableWord nbits w = some i) :
    ∃ cw, commandWordOfTable nbits w = some cw ∧ decode cw = .command i := by
  unfold decodeTableWord at h
  cases hcw : commandWordOfTable nbits w with
  | none => simp [hcw] at h
  | some cw =>
    cases hd : decode cw with
    | illegal code => simp [hcw, hd, decodedCommand] at h
    | command j => exact ⟨cw, rfl, by simpa [hcw, hd, decodedCommand] using h⟩

/-- Settles O10: a row that decodes makes a command word, which is offered and then accepted. -/
theorem offeredTableWordRunsNext : Obligations.OfferedTableWordRunsNext := by
  intro s nbits w i h
  obtain ⟨cw, hcw, hd⟩ := decodeTableWord_eq_some h
  rcases offerTableWord_cases nbits w s with ⟨cw', hcw', hoffer⟩ | ⟨hnone, _⟩
  · obtain rfl : cw = cw' := Option.some.inj (hcw.symm.trans hcw')
    rw [State.withFetchWord, hoffer, step_offer, takeEvent, acceptWord_of_command cw i s hd]
  · simp [hcw] at hnone

/-- Settles O11: `step_of_no_event`, and the idle interaction leaves the state. -/
theorem idlenessChangesNothing : Obligations.IdlenessChangesNothing :=
  fun s => ⟨step_of_no_event s, fun _ hin => step_of_input hin⟩

/-- Settles O12: the step with nothing to come, and `responses_of_eventNext` for the next interaction. -/
theorem everyStepAnswers : Obligations.EveryStepAnswers := by
  intro s
  cases hin : s.input with
  | nil => exact ⟨s, step_of_no_event s hin, hin, [], (List.append_nil _).symm, rfl⟩
  | cons e rest =>
    obtain ⟨new, hnew, hlen⟩ := responses_of_eventNext e s
    exact ⟨_, step_of_input hin, rfl, new, hnew, by simp [hlen]⟩

/-! ## What a command reads and writes (spec/10_state.md R24) -/

/-- Settles O19: one line of the table for each command. -/
theorem commandsWriteOnlyTheirRegisters : Obligations.CommandsWriteOnlyTheirRegisters := by
  intro i s
  refine ⟨execNext i s, exec_eq_next i s, ?_, ?_, ?_, execNext_input i s, exists_response_of_execNext i s⟩ <;>
    cases i <;> simp

/-- Settles O20: the equation of each command names only the registers it reads. -/
theorem commandsReadOnlyTheirRegisters : Obligations.CommandsReadOnlyTheirRegisters := by
  refine ⟨fun s s' t t' ht ht' => ?_, fun b s s' t t' hr ht ht' => ?_, fun s s' t t' hr ht ht' => ?_,
    fun s s' t t' hr ht ht' => ?_, fun s s' t t' hkey hkv ht ht' => ?_⟩ <;>
    rw [eq_execNext ht, eq_execNext ht']
  · simp
  · simp [hr]
  · simp [hr]
  · simp [hr]
  · simp [keyResponse_congr hkey hkv]

/-- A command other than `BYTE` twice: the second time it finds in the registers what it wrote. -/
theorem execNext_twice (i : Instr) (s : State) (hi : ∀ b, i ≠ .byte b) :
    SameRegisters (execNext i s) (execNext i (execNext i s)) ∧
      (execNext i (execNext i s)).responses.getLast? = (execNext i s).responses.getLast? := by
  cases i with
  | byte b => exact absurd rfl (hi b)
  | rdkey => simp [SameRegisters, keyResponse_congr (deliver_key _ s) (deliver_kv _ s)]
  | init | fold | rdcrc => simp [SameRegisters]

/-- The byte 0 absorbed again changes the register that it leaves after reset. -/
theorem absorb_zero_twice : absorb (absorb crcInit 0x00#8) 0x00#8 ≠ absorb crcInit 0x00#8 := by
  have hfirst : absorb crcInit 0x00#8 = 0x2DFD1072#32 := by decide
  rw [hfirst]
  decide

/-- Settles O23: `execNext_twice`, and the byte 0 absorbed twice from the reset state. -/
theorem allButByteAreIdempotent : Obligations.AllButByteAreIdempotent :=
  ⟨fun i s hi => ⟨_, _, exec_eq_next i s, exec_eq_next i _, execNext_twice i s hi⟩,
    0x00#8, State.reset, _, _, exec_byte _ _, exec_byte _ _, by simpa [reset_r] using absorb_zero_twice⟩

end Sys2Proof.Machine
end

section
/-! PROOFS. Runs over the host's interactions (spec/70_reset_and_hazards.md R193 to R195) and the invariants of the state
along them (spec/10_state.md R33, R34). -/

namespace Sys2Proof.Machine

/-! ## Runs -/

/-- The state after a sequence of interactions; it is what a run over them answers (`runAll_of_input`). -/
def runEvents (es : List HostEvent) (s : State) : State :=
  es.foldl (fun t e => eventNext e t) s

@[simp] theorem runEvents_nil (s : State) : runEvents [] s = s := rfl

@[simp] theorem runEvents_cons (e : HostEvent) (es : List HostEvent) (s : State) :
    runEvents (e :: es) s = runEvents es (eventNext e s) := rfl

@[simp] theorem runEvents_append (es fs : List HostEvent) (s : State) :
    runEvents (es ++ fs) s = runEvents fs (runEvents es s) :=
  List.foldl_append

theorem runEvents_with_input (es : List HostEvent) (s : State) (fs : List HostEvent) :
    runEvents es { s with input := fs } = { runEvents es s with input := fs } := by
  induction es generalizing s with
  | nil => rfl
  | cons e es ih => rw [runEvents_cons, eventNext_with_input, ih, runEvents_cons]

@[simp] theorem runEvents_input (es : List HostEvent) (s : State) : (runEvents es s).input = s.input := by
  have h := congrArg State.input (runEvents_with_input es s s.input)
  exact h

/-- A run over the host's coming interactions is `runEvents`, with the stream used up. -/
theorem runAll_of_input (es : List HostEvent) (s : State) :
    runAll { s with input := es } = .next (runEvents es { s with input := [] }) := by
  induction es generalizing s with
  | nil => rfl
  | cons e es ih =>
    have hstep : step { s with input := e :: es } = .next { eventNext e s with input := es } := by
      rw [step_of_input (rfl : State.input { s with input := e :: es } = e :: es), eventNext_with_input]
    calc runAll { s with input := e :: es }
      _ = runAll { eventNext e s with input := es } := run_succ_of_step es.length _ _ hstep
      _ = .next (runEvents (e :: es) { s with input := [] }) := by
        rw [runEvents_cons, eventNext_with_input e s []]
        exact ih _

theorem runAll_eq (s : State) : runAll s = .next (runEvents s.input { s with input := [] }) :=
  runAll_of_input s.input s

/-- What every interaction of a sequence keeps, the sequence keeps. -/
theorem runEvents_keeps {P : State → Prop} {es : List HostEvent} (hkeep : ∀ e ∈ es, ∀ s, P s → P (eventNext e s))
    {s : State} (hs : P s) : P (runEvents es s) := by
  induction es generalizing s with
  | nil => exact hs
  | cons e es ih =>
    exact ih (fun e' he' => hkeep e' (List.mem_cons_of_mem e he')) (hkeep e List.mem_cons_self s hs)

theorem responses_of_runEvents (es : List HostEvent) (s : State) :
    ∃ new, (runEvents es s).responses = s.responses ++ new ∧ new.length = es.countP HostEvent.answered := by
  induction es generalizing s with
  | nil => exact ⟨[], (List.append_nil _).symm, rfl⟩
  | cons e es ih =>
    obtain ⟨new, hnew, hlen⟩ := responses_of_eventNext e s
    obtain ⟨later, hlater, hcount⟩ := ih (eventNext e s)
    refine ⟨new ++ later, ?_, ?_⟩
    · rw [runEvents_cons, hlater, hnew, List.append_assoc]
    · rw [List.length_append, hlen, hcount, List.countP_cons, Nat.add_comm]

/-- Settles O13: the run is `runEvents`, which counts its responses. -/
theorem everyRunAnswersEveryCommand : Obligations.EveryRunAnswersEveryCommand := by
  intro s
  obtain ⟨new, hnew, hcount⟩ := responses_of_runEvents s.input { s with input := [] }
  exact ⟨_, runAll_eq s, runEvents_input _ _, new, hnew, hcount⟩

/-! ## Harmless interactions (spec/60_exceptions.md R157; spec/20_memory.md section 4) -/

/-- A read, an illegal word and idleness write no register. -/
theorem sameRegisters_of_harmless {e : HostEvent} (s : State) : e.harmless = true → SameRegisters (eventNext e s) s := by
  induction e using forall_event with
  | command cw i hd =>
    rw [eventNext_of_command hd, HostEvent.harmless, hd]
    cases i with
    | init | byte b | fold => exact nofun
    | rdcrc | rdkey => simp [SameRegisters]
  | illegal cw code hd => simp [SameRegisters, eventNext_of_illegal hd]
  | reset | interrupted cw => exact nofun
  | idle => simp [SameRegisters]

/-- The registers after an interaction depend on the registers before it alone. -/
theorem sameRegisters_eventNext (e : HostEvent) {s t : State} (h : SameRegisters s t) :
    SameRegisters (eventNext e s) (eventNext e t) := by
  obtain ⟨hr, hkey, hkv⟩ := h
  induction e using forall_event with
  | command cw i hd =>
    rw [eventNext_of_command hd, eventNext_of_command hd]
    cases i <;> simp [SameRegisters, hr, hkey, hkv]
  | illegal cw code hd => simp [SameRegisters, eventNext_of_illegal hd, hr, hkey, hkv]
  | reset | interrupted cw => simp [SameRegisters]
  | idle => exact ⟨hr, hkey, hkv⟩

theorem sameRegisters_runEvents (es : List HostEvent) {s t : State} (h : SameRegisters s t) :
    SameRegisters (runEvents es s) (runEvents es t) := by
  induction es generalizing s t with
  | nil => exact h
  | cons e es ih => exact ih (sameRegisters_eventNext e h)

/-- Settles O21: the two runs have the same registers where one takes the harmless interaction, and so to the end. -/
theorem harmlessEventsDoNotDisturbASession : Obligations.HarmlessEventsDoNotDisturbASession := by
  intro s before after e he
  refine ⟨_, _, runAll_of_input _ s, runAll_of_input _ s, ?_⟩
  rw [runEvents_append, runEvents_append, runEvents_cons]
  exact sameRegisters_runEvents after (sameRegisters_of_harmless _ he)

/-! ## The stored key (spec/10_state.md R23; spec/70_reset_and_hazards.md R188) -/

/-- Only `FOLD` and reset write `KEY` and `KV`. -/
theorem key_of_keepsKey {e : HostEvent} (s : State) :
    e.keepsKey = true → (eventNext e s).key = s.key ∧ (eventNext e s).kv = s.kv := by
  induction e using forall_event with
  | command cw i hd =>
    rw [eventNext_of_command hd, HostEvent.keepsKey, hd]
    cases i <;> simp
  | illegal cw code hd => simp [eventNext_of_illegal hd]
  | reset | interrupted cw => exact nofun
  | idle => simp

theorem key_of_run_that_keepsKey {es : List HostEvent} (hkeep : ∀ e ∈ es, e.keepsKey = true) (s : State) :
    (runEvents es s).key = s.key ∧ (runEvents es s).kv = s.kv :=
  runEvents_keeps (P := fun t => t.key = s.key ∧ t.kv = s.kv)
    (fun e he t ⟨hkey, hkv⟩ =>
      ⟨(key_of_keepsKey t (hkeep e he)).1.trans hkey, (key_of_keepsKey t (hkeep e he)).2.trans hkv⟩) ⟨rfl, rfl⟩

/-- An interaction that clears `KV` is a reset, and one that sets it is the word of `FOLD` (R23). -/
theorem kv_changes {e : HostEvent} {s : State} :
    (s.kv = true → (eventNext e s).kv = false → e = .reset ∨ ∃ cw, e = .interrupted cw) ∧
      (s.kv = false → (eventNext e s).kv = true → e = .command 0x300#12) := by
  by_cases hkeep : e.keepsKey = true
  · rw [(key_of_keepsKey s hkeep).2]
    exact ⟨fun ht hf => by simp [ht] at hf, fun hf ht => by simp [hf] at ht⟩
  · cases e with
    | command cw =>
      have hfold : decode cw = .command .fold := by simpa [HostEvent.keepsKey] using hkeep
      obtain rfl : cw = encode .fold := (decode_eq_command_iff_encode .fold cw).1 hfold
      exact ⟨by simp, fun _ _ => rfl⟩
    | reset => exact ⟨fun _ _ => .inl rfl, by simp⟩
    | interrupted cw => exact ⟨fun _ _ => .inr ⟨cw, rfl⟩, by simp⟩
    | idle => exact absurd rfl hkeep

/-- Settles O3: `kv_changes` for the interaction that the step takes. -/
theorem onlyFoldSetsAndOnlyResetClearsKeyValid : Obligations.OnlyFoldSetsAndOnlyResetClearsKeyValid := by
  intro s t h
  rcases step_cases h with ⟨_, rfl⟩ | ⟨e, rest, hin, rfl⟩
  · exact ⟨fun ht hf => by simp [ht] at hf, fun hf ht => by simp [hf] at ht⟩
  · obtain ⟨hclear, hset⟩ := @kv_changes e s
    simpa [hin] using And.intro hclear hset

/-! ## The range of `KEY` (spec/10_state.md R33) -/

/-- Settles O24: both parts hold of the reset values. -/
theorem resetKeyIsInRange : Obligations.ResetKeyIsInRange :=
  ⟨Nat.zero_le _, fun _ => rfl⟩

/-- `FOLD` stores a remainder and sets `KV`, reset stores 0, and nothing else writes `KEY` or `KV`. -/
theorem keyInRange_eventNext (e : HostEvent) {s : State} (h : KeyInRange s) : KeyInRange (eventNext e s) := by
  by_cases hkeep : e.keepsKey = true
  · obtain ⟨hkey, hkv⟩ := key_of_keepsKey s hkeep
    rwa [KeyInRange, hkey, hkv]
  · cases e with
    | command cw =>
      have hfold : decode cw = .command .fold := by simpa [HostEvent.keepsKey] using hkeep
      rw [eventNext_of_command hfold]
      exact ⟨foldKey_toNat_le _, nofun⟩
    | reset | interrupted cw => exact resetKeyIsInRange
    | idle => exact h

/-- Settles O25: `keyInRange_eventNext` for the interaction that the step takes. -/
theorem stepKeepsKeyInRange : Obligations.StepKeepsKeyInRange := by
  intro s t hs h
  rcases step_cases h with ⟨_, rfl⟩ | ⟨e, rest, _, rfl⟩
  · exact hs
  · exact keyInRange_eventNext e hs

/-! ## The session (spec/10_state.md R34) -/

/-- Settles O26: reset leaves the register of the empty message and no key. -/
theorem resetSessionHolds : Obligations.ResetSessionHolds :=
  ⟨reset_r, rfl, rfl⟩

/-- Each command changes the registers as it changes the ghost message. -/
theorem sessionHolds_execNext (i : Instr) {s : State} {g : Ghost} (h : SessionHolds s g) :
    SessionHolds (execNext i s) (g.afterCommand i) := by
  obtain ⟨hr, hkey⟩ := h
  cases i with
  | init => exact ⟨rfl, hkey⟩
  | byte b =>
    refine ⟨?_, hkey⟩
    simp [Ghost.afterCommand, hr, crcreg_concat]
  | fold => simp [SessionHolds, Ghost.afterCommand, hr, crc32]
  | rdcrc => exact ⟨hr, hkey⟩
  | rdkey => rw [execNext_rdkey]; exact ⟨hr, hkey⟩

theorem sessionHolds_eventNext (e : HostEvent) {s : State} {g : Ghost} (h : SessionHolds s g) :
    SessionHolds (eventNext e s) (g.afterEvent e) := by
  induction e using forall_event with
  | command cw i hd =>
    rw [eventNext_of_command hd, afterEvent_of_command g cw i hd]
    exact sessionHolds_execNext i h
  | illegal cw code hd =>
    rw [eventNext_of_illegal hd, afterEvent_of_illegal g cw code hd]
    exact h
  | reset | interrupted cw => exact resetSessionHolds
  | idle => exact h

/-- Settles O27: `sessionHolds_eventNext` for the interaction that the step takes. -/
theorem stepKeepsTheSession : Obligations.StepKeepsTheSession := by
  intro s t g hs h
  rcases step_cases h with ⟨hin, rfl⟩ | ⟨e, rest, hin, rfl⟩
  · rwa [afterStep_of_no_event g _ hin]
  · rw [afterStep_of_event g s e rest hin]
    exact sessionHolds_eventNext e hs

theorem sessionHolds_runEvents (es : List HostEvent) {s : State} {g : Ghost} (h : SessionHolds s g) :
    SessionHolds (runEvents es s) (g.afterEvents es) := by
  induction es generalizing s g with
  | nil => exact h
  | cons e es ih => exact ih (sessionHolds_eventNext e h)

/-- Settles O28: the run from reset is `runEvents`, which keeps the session. -/
theorem runsFromResetTrackTheirMessage : Obligations.RunsFromResetTrackTheirMessage := by
  intro es t h
  obtain rfl := Host.Outcome.next.inj ((runAll_of_input es State.reset).symm.trans h)
  exact sessionHolds_runEvents es resetSessionHolds

/-! ## Issuing a word -/

/-- `issue` answers the state after the word and the response the word got. -/
theorem issue_eq (cw : CommandWord) (s : State) : ∃ rsp, issue cw s = some (eventNext (.command cw) s, rsp) ∧
    (eventNext (.command cw) s).responses = s.responses ++ [rsp] := by
  obtain ⟨rsp, hrsp⟩ := exists_response_of_word cw s
  refine ⟨rsp, ?_, hrsp⟩
  rw [issue, step_offer, takeEvent_eq_next]
  simp [hrsp]

/-- The response to a word, when what it adds to the record is known. -/
theorem issue_of_responses {cw : CommandWord} {s t : State} {rsp : Response} (ht : eventNext (.command cw) s = t)
    (hrsp : t.responses = s.responses ++ [rsp]) : issue cw s = some (t, rsp) := by
  obtain ⟨rsp', hissue, hrsp'⟩ := issue_eq cw s
  rw [ht] at hissue hrsp'
  obtain rfl : rsp = rsp' := by simpa using hrsp.symm.trans hrsp'
  exact hissue

theorem issue_rdkey (s : State) : issue 0x500#12 s = some (deliver (keyResponse s) s, keyResponse s) :=
  issue_of_responses ((eventNext_encode .rdkey s).trans (execNext_rdkey s)) rfl

/-- Settles O22: the accessor answers from `KEY` and `KV`, which the run keeps. -/
theorem storedKeyIsReadUntilTheNextFold : Obligations.StoredKeyIsReadUntilTheNextFold := by
  intro s t hkeep h
  obtain rfl := Host.Outcome.next.inj ((runAll_eq s).symm.trans h)
  obtain ⟨hkey, hkv⟩ := key_of_run_that_keepsKey hkeep { s with input := [] }
  refine ⟨keyResponse s, by rw [hostAccessor, issue_rdkey]; rfl, ?_⟩
  rw [hostAccessor, issue_rdkey, keyResponse_congr hkey hkv]
  rfl

end Sys2Proof.Machine
end

section
/-! PROOFS. The laws of the bit step and the byte step (spec/40_checksum_engine.md R86 to R89) and the table of
spec/43_crc_table.md. -/

namespace Sys2Proof.Machine

/-! ## The bit step is linear and invertible (R87) -/

theorem step1_xor (a b : Word) : step1 (a ^^^ b) = step1 a ^^^ step1 b := by
  apply BitVec.eq_of_getLsbD_eq
  intro i _
  simp only [getLsbD_step1, BitVec.getLsbD_xor, Bool.and_xor_distrib_right, Bool.xor_assoc, Bool.xor_left_comm]

/-- `POLY` has its top bit and the bit above it reads as 0, so bit 31 of the result is the bit that was tested. -/
theorem getLsbD_step1_top (r : Word) : (step1 r).getLsbD 31 = r.getLsbD 0 := by
  have hpoly : poly.getLsbD 31 = true := by decide
  rw [getLsbD_step1, hpoly, BitVec.getLsbD_of_ge r 32 (Nat.le_refl 32), Bool.false_xor, Bool.and_true]

/-- The shift leaves bit 0 clear, so adding 1 sets it. -/
theorem shiftLeft_one_add_one (x : Word) : (x <<< 1) + 1#32 = (x <<< 1) ||| 1#32 := by
  apply BitVec.add_eq_or_of_and_eq_zero
  apply BitVec.eq_of_getLsbD_eq
  intro i _
  cases i with
  | zero => simp
  | succ i => simp [BitVec.getLsbD_one]

theorem getLsbD_unstep1_zero (s : Word) : (unstep1 s).getLsbD 0 = s.getLsbD 31 := by
  rw [unstep1]
  cases h : s.getLsbD 31 with
  | true => rw [if_pos rfl, shiftLeft_one_add_one]; simp
  | false => rw [if_neg Bool.false_ne_true]; simp

/-- Every other bit of the inverse: the bit below it, with the flip of `POLY` undone. -/
theorem getLsbD_unstep1_succ (s : Word) {i : Nat} (hi : i + 1 < 32) :
    (unstep1 s).getLsbD (i + 1) = (s.getLsbD i ^^ (s.getLsbD 31 && poly.getLsbD i)) := by
  have hlow : ∀ x : Word, (x <<< 1).getLsbD (i + 1) = x.getLsbD i := fun x => by
    rw [BitVec.getLsbD_shiftLeft, decide_eq_true hi]
    simp
  rw [unstep1]
  cases h : s.getLsbD 31 with
  | true => rw [if_pos rfl, shiftLeft_one_add_one, BitVec.getLsbD_or, hlow]; simp
  | false => rw [if_neg Bool.false_ne_true, hlow]; simp

theorem unstep1_step1 (r : Word) : unstep1 (step1 r) = r := by
  apply BitVec.eq_of_getLsbD_eq
  intro i hi
  cases i with
  | zero => rw [getLsbD_unstep1_zero, getLsbD_step1_top]
  | succ i =>
    rw [getLsbD_unstep1_succ _ hi, getLsbD_step1_top, getLsbD_step1, Bool.xor_assoc, Bool.xor_self, Bool.xor_false]

theorem step1_unstep1 (s : Word) : step1 (unstep1 s) = s := by
  apply BitVec.eq_of_getLsbD_eq
  intro i hi
  rw [getLsbD_step1, getLsbD_unstep1_zero]
  by_cases htop : i + 1 < 32
  · rw [getLsbD_unstep1_succ _ htop, Bool.xor_assoc, Bool.xor_self, Bool.xor_false]
  · obtain rfl : i = 31 := by omega
    have hpoly : poly.getLsbD 31 = true := by decide
    rw [hpoly, BitVec.getLsbD_of_ge _ 32 (Nat.le_refl 32), Bool.false_xor, Bool.and_true]

/-- Settles O31: bit by bit, with `getLsbD_step1` and the two lemmas for the bits of `unstep1`. -/
theorem bitStepIsLinearAndInvertible : Obligations.BitStepIsLinearAndInvertible :=
  ⟨step1_xor, getLsbD_step1_top, unstep1_step1, step1_unstep1⟩

/-! ## Several bit steps -/

theorem bitSteps_xor (n : Nat) (a b : Word) : bitSteps n (a ^^^ b) = bitSteps n a ^^^ bitSteps n b := by
  induction n generalizing a b with
  | zero => rfl
  | succ n ih => rw [bitSteps_succ, step1_xor, ih, bitSteps_succ, bitSteps_succ]

theorem bitSteps_bijective (n : Nat) : Function.Bijective (bitSteps n) := by
  have hstep : Function.Bijective step1 :=
    Function.bijective_iff_has_inverse.2 ⟨unstep1, unstep1_step1, step1_unstep1⟩
  rw [show bitSteps n = step1^[n] from funext (bitSteps_eq_iterate n)]
  exact hstep.iterate n

/-- Where the low bits are clear, the bit steps only shift. -/
theorem bitSteps_of_low_bits_clear (n : Nat) (w : Word) (h : ∀ i < n, w.getLsbD i = false) : bitSteps n w = w >>> n := by
  induction n generalizing w with
  | zero => simp
  | succ n ih =>
    have hclear : ∀ i < n, (w >>> 1).getLsbD i = false := fun i hi => by
      rw [BitVec.getLsbD_ushiftRight]
      exact h (1 + i) (by omega)
    rw [bitSteps_succ, step1_of_low_bit_clear w (h 0 n.succ_pos), ih _ hclear, ← BitVec.shiftRight_add, Nat.add_comm]

/-- As many bit steps as places a value was shifted up bring it back down. -/
theorem bitSteps_shiftLeft {n : Nat} {y : Word} (h : y <<< n >>> n = y) : bitSteps n (y <<< n) = y := by
  rw [bitSteps_of_low_bits_clear n _ fun i hi => by simp [hi], h]

/-! ## The byte step (R88) -/

@[simp] theorem byteOperand_xor (a b : Byte) : byteOperand (a ^^^ b) = byteOperand a ^^^ byteOperand b :=
  BitVec.setWidth_xor

theorem byteOperand_injective : Function.Injective byteOperand := fun a b h => by
  rw [← low_bits_byteOperand a, h, low_bits_byteOperand]

theorem absorb_eq_xor (r : Word) (b : Byte) : absorb r b = bitSteps 8 r ^^^ bitSteps 8 (byteOperand b) :=
  bitSteps_xor 8 r _

theorem absorb_bijective (b : Byte) : Function.Bijective fun r => absorb r b :=
  (bitSteps_bijective 8).comp
    (Function.bijective_iff_has_inverse.2 ⟨fun r => r ^^^ byteOperand b, fun r => by simp, fun r => by simp⟩)

theorem absorb_injective_byte (r : Word) : Function.Injective (absorb r) := fun _ _ h =>
  byteOperand_injective ((BitVec.xor_right_inj r).1 ((bitSteps_bijective 8).1 h))

/-- Settles O32: linearity splits the byte step, which is a bijection after an XOR. -/
theorem byteStepIsLinearAndBijective : Obligations.ByteStepIsLinearAndBijective := by
  refine ⟨fun r b => ?_, absorb_bijective, absorb_injective_byte⟩
  rw [absorb_eq_xor, bitSteps_eq_iterate, bitSteps_eq_iterate, byteOperand]

theorem absorbAll_injective_register (m : List Byte) : Function.Injective fun r => absorbAll r m := by
  induction m with
  | nil => exact fun _ _ h => h
  | cons b m ih => exact fun _ _ h => (absorb_bijective b).1 (ih h)

/-- Settles O33: the two registers differ after the changed byte, and each later byte keeps them different. -/
theorem oneChangedByteChangesTheChecksum : Obligations.OneChangedByteChangesTheChecksum := by
  intro before after b b' hb h
  have hreg : crcreg (before ++ b :: after) = crcreg (before ++ b' :: after) := (BitVec.xor_left_inj _).1 h
  rw [crcreg, crcreg, absorbAll_append, absorbAll_append] at hreg
  exact hb (absorb_injective_byte _ (absorbAll_injective_register after hreg))

/-! ## Four bytes (R89) -/

/-- A byte shifted to its place does not lose bits at the top. -/
theorem byteOperand_shiftLeft_ushiftRight {n : Nat} (hn : n + 8 ≤ 32) (b : Byte) :
    byteOperand b <<< n >>> n = byteOperand b := by
  apply BitVec.eq_of_getLsbD_eq
  intro i hi
  by_cases hbyte : i < 8
  · have hin : n + i < 32 := by omega
    simp [byteOperand, hin, hi]
  · simp [byteOperand, BitVec.getLsbD_of_ge b i (by omega)]

/-- Absorbing a byte after `n` bit steps is to XOR it in `n` places higher and make 8 bit steps more. -/
theorem absorb_bitSteps {n : Nat} (hn : n + 8 ≤ 32) (w : Word) (b : Byte) :
    absorb (bitSteps n w) b = bitSteps (n + 8) (w ^^^ (byteOperand b <<< n)) := by
  have hplace : bitSteps n (byteOperand b <<< n) = byteOperand b :=
    bitSteps_shiftLeft (byteOperand_shiftLeft_ushiftRight hn b)
  rw [bitSteps_add, bitSteps_xor, hplace, absorb]

/-- The word of four bytes, the first byte lowest (`D` of R89). -/
def wordOfBytes (b0 b1 b2 b3 : Byte) : Word :=
  b3 ++ b2 ++ b1 ++ b0

/-- The four bytes of a word, the lowest first. -/
def bytesOfWord (w : Word) : List Byte :=
  [w.extractLsb' 0 8, w.extractLsb' 8 8, w.extractLsb' 16 8, w.extractLsb' 24 8]

theorem getLsbD_wordOfBytes (b0 b1 b2 b3 : Byte) (i : Nat) : (wordOfBytes b0 b1 b2 b3).getLsbD i =
    if i < 8 then b0.getLsbD i else if i < 16 then b1.getLsbD (i - 8)
    else if i < 24 then b2.getLsbD (i - 16) else b3.getLsbD (i - 24) := by
  simp only [wordOfBytes, BitVec.getLsbD_append]
  grind

theorem wordOfBytes_eq_xor (b0 b1 b2 b3 : Byte) : wordOfBytes b0 b1 b2 b3 =
    byteOperand b0 ^^^ (byteOperand b1 <<< 8) ^^^ (byteOperand b2 <<< 16) ^^^ (byteOperand b3 <<< 24) := by
  apply BitVec.eq_of_getLsbD_eq
  intro i hi
  simp only [getLsbD_wordOfBytes, byteOperand, BitVec.getLsbD_xor, BitVec.getLsbD_shiftLeft, BitVec.getLsbD_setWidth]
  grind

theorem bytesOfWord_wordOfBytes (b0 b1 b2 b3 : Byte) : bytesOfWord (wordOfBytes b0 b1 b2 b3) = [b0, b1, b2, b3] := by
  have hbyte : ∀ (k : Nat) (b : Byte), (∀ i < 8, (wordOfBytes b0 b1 b2 b3).getLsbD (k + i) = b.getLsbD i) →
      (wordOfBytes b0 b1 b2 b3).extractLsb' k 8 = b := fun k b h => BitVec.eq_of_getLsbD_eq fun i hi => by
    rw [BitVec.getLsbD_extractLsb', h i hi, decide_eq_true hi, Bool.true_and]
  rw [bytesOfWord, hbyte 0 b0, hbyte 8 b1, hbyte 16 b2, hbyte 24 b3] <;> intro i hi <;>
    rw [getLsbD_wordOfBytes] <;> grind

theorem absorbAll_four (r : Word) (b0 b1 b2 b3 : Byte) :
    absorbAll r [b0, b1, b2, b3] = bitSteps 32 (r ^^^ wordOfBytes b0 b1 b2 b3) := by
  rw [wordOfBytes_eq_xor]
  simp only [absorbAll_cons, absorbAll_nil]
  rw [show absorb r b0 = bitSteps 8 (r ^^^ byteOperand b0) from rfl, absorb_bitSteps (by decide),
    absorb_bitSteps (by decide), absorb_bitSteps (by decide)]
  simp only [BitVec.xor_assoc]

theorem wordOfBytes_of_bytesOfWord (w : Word) : wordOfBytes (w.extractLsb' 0 8) (w.extractLsb' 8 8) (w.extractLsb' 16 8)
    (w.extractLsb' 24 8) = w := by
  apply BitVec.eq_of_getLsbD_eq
  intro i hi
  simp only [getLsbD_wordOfBytes, BitVec.getLsbD_extractLsb']
  grind

/-- Settles O34: four bytes are one XOR with their word and a bijection, and a word is its four bytes. -/
theorem fourBytesReachEveryRegisterOnce : Obligations.FourBytesReachEveryRegisterOnce := by
  refine ⟨absorbAll_four, fun r t => ?_⟩
  obtain ⟨w, rfl⟩ := (bitSteps_bijective 32).2 t
  refine ⟨bytesOfWord (r ^^^ w), ⟨rfl, ?_⟩, fun m hm => ?_⟩
  · rw [bytesOfWord, absorbAll_four, wordOfBytes_of_bytesOfWord, ← BitVec.xor_assoc, BitVec.xor_self, BitVec.zero_xor]
  · obtain ⟨hlen, habsorb⟩ := hm
    obtain ⟨b0, b1, b2, b3, rfl⟩ := List.length_eq_four.1 hlen
    have hw : r ^^^ wordOfBytes b0 b1 b2 b3 = w :=
      (bitSteps_bijective 32).1 ((absorbAll_four r b0 b1 b2 b3).symm.trans habsorb)
    rw [← hw, ← BitVec.xor_assoc, BitVec.xor_self, BitVec.zero_xor, bytesOfWord_wordOfBytes]

/-! ## The table (spec/43_crc_table.md R140 to R142) -/

/-- Every one of the 256 constants is eight bit steps of its index (R140). -/
theorem tableEntry_eq (i : Byte) : tableEntry i = bitSteps 8 (byteOperand i) := by
  revert i
  decide +kernel

theorem tableEntry_xor (i j : Byte) : tableEntry (i ^^^ j) = tableEntry i ^^^ tableEntry j := by
  simp only [tableEntry_eq, byteOperand_xor, bitSteps_xor]

theorem tableEntry_injective : Function.Injective tableEntry := fun i j h =>
  byteOperand_injective ((bitSteps_bijective 8).1 (by rwa [← tableEntry_eq, ← tableEntry_eq]))

/-- Only the entry 0 has a top byte of zero. -/
theorem eq_zero_of_tableEntry_top : ∀ i : Byte, (tableEntry i).extractLsb' 24 8 = 0#8 → i = 0#8 := by decide +kernel

/-- The top bytes of two entries differ, since the XOR of the entries is the entry of the XOR. -/
theorem eq_of_tableEntry_top (i j : Byte) (h : (tableEntry i).extractLsb' 24 8 = (tableEntry j).extractLsb' 24 8) :
    i = j := by
  have htop : (tableEntry (i ^^^ j)).extractLsb' 24 8 = 0#8 := by
    rw [tableEntry_xor, BitVec.extractLsb'_xor, h, BitVec.xor_self]
  exact BitVec.xor_eq_zero_iff.1 (eq_zero_of_tableEntry_top _ htop)

/-- Settles O37: the 256 entries by evaluation, and the different top bytes by linearity. -/
theorem tableHoldsTheBitSteps : Obligations.TableHoldsTheBitSteps :=
  ⟨crcTable_length, tableEntry_eq, rfl, rfl, rfl, by decide +kernel, by decide +kernel, eq_of_tableEntry_top⟩

/-- Settles O38: linear and injective as the bit steps are, and the eight generators read off the table. -/
theorem tableIsLinearAndInjective : Obligations.TableIsLinearAndInjective :=
  ⟨tableEntry_xor, tableEntry_injective, rfl⟩

/-! ## The three forms of the byte step (R86, R142) -/

theorem serialClocks_eq (n : Nat) (k : BitVec 3) (x : Word) :
    serialClocks n (k, x) = (k + BitVec.ofNat 3 n, bitSteps n x) := by
  induction n generalizing k x with
  | zero => simp [serialClocks]
  | succ n ih =>
    have hcount : k + 1#3 + BitVec.ofNat 3 n = k + BitVec.ofNat 3 (n + 1) := by
      rw [BitVec.add_assoc, ← BitVec.ofNat_add, Nat.add_comm]
    rw [serialClocks, serialClock, ih, hcount, bitSteps_succ]

/-- Settles O36: `serialClocks_eq` from the count 0. -/
theorem serialFormCountsItsBitSteps : Obligations.SerialFormCountsItsBitSteps := fun n x => by
  rw [serialClocks_eq, BitVec.zero_add]

/-- A word is its low byte and, eight places up, the rest. -/
theorem eq_low_byte_xor_shift (w : Word) : w = byteOperand (w.setWidth 8) ^^^ ((w >>> 8) <<< 8) := by
  apply BitVec.eq_of_getLsbD_eq
  intro i hi
  simp only [byteOperand, BitVec.getLsbD_xor, BitVec.getLsbD_setWidth, BitVec.getLsbD_shiftLeft,
    BitVec.getLsbD_ushiftRight]
  grind

/-- Eight bit steps shift the high part down and replace the low byte by its table entry. -/
theorem bitSteps_eight (w : Word) : bitSteps 8 w = tableEntry (w.setWidth 8) ^^^ (w >>> 8) := by
  have hhigh : bitSteps 8 ((w >>> 8) <<< 8) = w >>> 8 := bitSteps_shiftLeft (by
    apply BitVec.eq_of_getLsbD_eq
    intro i hi
    simp only [BitVec.getLsbD_shiftLeft, BitVec.getLsbD_ushiftRight]
    grind)
  conv_lhs => rw [eq_low_byte_xor_shift w]
  rw [bitSteps_xor, ← tableEntry_eq, hhigh]

theorem byteOperand_ushiftRight (b : Byte) : byteOperand b >>> 8 = 0#32 := by
  apply BitVec.eq_of_getLsbD_eq
  intro i _
  simp [byteOperand]

theorem absorbByTable_eq (r : Word) (b : Byte) : absorbByTable r b = absorb r b := by
  rw [absorb, bitSteps_eight, absorbByTable, BitVec.ushiftRight_xor_distrib, byteOperand_ushiftRight, BitVec.xor_zero]

/-- Settles O35: the serial form by its clocks, the unrolled form as written, and the table by `bitSteps_eight`. -/
theorem everyFormOfTheByteStepAgrees : Obligations.EveryFormOfTheByteStepAgrees := by
  intro f r b
  cases f with
  | bitwiseSerial => rw [absorbIn, absorbSerial, serialClocks_eq, absorb]
  | bitwiseUnrolled => rfl
  | table => exact absorbByTable_eq r b

end Sys2Proof.Machine
end

section
/-! PROOFS. The exact sum of the fold and the number of checksums for each key (spec/41_folding_unit.md R101, R106). -/

namespace Sys2Proof.Machine

/-! ## Counting words by their value -/

/-- Words are counted as the numbers below `2 ^ w`. -/
theorem card_filter_toNat {w : Nat} (p : Nat → Prop) [DecidablePred p] :
    (Finset.univ.filter fun x : BitVec w => p x.toNat).card = Nat.count p (2 ^ w) := by
  rw [Nat.count_eq_card_filter_range]
  refine Finset.card_bij (fun x _ => x.toNat) (fun x hx => ?_) (fun x _ y _ h => BitVec.eq_of_toNat_eq h)
    fun n hn => ?_
  · exact Finset.mem_filter.2 ⟨Finset.mem_range.2 x.isLt, (Finset.mem_filter.1 hx).2⟩
  · obtain ⟨hlt, hp⟩ := Finset.mem_filter.1 hn
    have hval : (BitVec.ofNat w n).toNat = n := Nat.mod_eq_of_lt (Finset.mem_range.1 hlt)
    exact ⟨BitVec.ofNat w n, Finset.mem_filter.2 ⟨Finset.mem_univ _, by rwa [hval]⟩, hval⟩

/-- The mask permutes the checksums, so those with a property of their masked value are counted by that value. -/
theorem card_filter_foldMask (p : Nat → Prop) [DecidablePred p] :
    (Finset.univ.filter fun c : Word => p (foldMask c).toNat).card = Nat.count p (2 ^ 32) := by
  have hmask : Function.Involutive foldMask := fun c => by simp [foldMask]
  rw [← card_filter_toNat]
  exact Finset.card_equiv hmask.toPerm fun c => by simp

/-! ## The carry out of 32 bits (R101) -/

theorem foldSum_carries_iff (c : Word) : 2 ^ 32 ≤ foldSum c ↔ 4294961983 ≤ (foldMask c).toNat := by
  rw [foldSum_eq]
  omega

/-- Of the numbers below `a + b`, those from `a` up are `b`. -/
theorem count_le (a b : Nat) : Nat.count (a ≤ ·) (a + b) = b := by
  rw [Nat.count_add, Nat.count_of_forall_not fun n hn => Nat.not_le_of_lt hn,
    Nat.count_of_forall fun n _ => Nat.le_add_right a n, Nat.zero_add]

theorem card_foldSum_carries : (Finset.univ.filter fun c : Word => 2 ^ 32 ≤ foldSum c).card = 5313 := by
  have hpow : 2 ^ 32 = 4294961983 + 5313 := by norm_num
  calc (Finset.univ.filter fun c : Word => 2 ^ 32 ≤ foldSum c).card
    _ = (Finset.univ.filter fun c : Word => 4294961983 ≤ (foldMask c).toNat).card := by
      simp only [foldSum_carries_iff]
    _ = Nat.count (4294961983 ≤ ·) (2 ^ 32) := card_filter_foldMask _
    _ = 5313 := by rw [hpow, count_le]

/-- Dropping the carry would lose `2 ^ 32`, which is 67296 modulo 100000. -/
theorem foldKey_of_carry (c : Word) (h : 2 ^ 32 ≤ foldSum c) :
    (foldKey c).toNat = ((foldSum c - 2 ^ 32) % 100000 + 67296) % 100000 ∧
      (foldKey c).toNat ≠ (foldSum c - 2 ^ 32) % 100000 := by
  rw [foldKey_toNat, keyMod]
  omega

/-- Settles O40: bounds of the sum, its carry in terms of the masked checksum, and the count of those. -/
theorem foldSumNeedsThirtyThreeBits : Obligations.FoldSumNeedsThirtyThreeBits := by
  refine ⟨fun c => ?_, fun c => ?_, card_foldSum_carries, foldKey_of_carry, by decide, by decide⟩
  · have hle := (foldSum_bounds c).2
    omega
  · rw [foldSum_carries_iff, BitVec.le_def]
    rfl

/-! ## The checksums of each key (R106) -/

/-- The masked checksums that fold to `k` are one residue class modulo 100000. -/
theorem foldKey_eq_iff (c : Word) {k : Nat} (hk : k ≤ 99999) :
    (foldKey c).toNat = k ↔ (foldMask c).toNat ≡ k + 94687 [MOD 100000] := by
  rw [foldKey_toNat, foldSum_eq, keyMod, Nat.ModEq]
  omega

/-- Settles O41: the size of the residue class below `2 ^ 32 = 42949 * 100000 + 67296`. -/
theorem everyKeyHasItsNumberOfChecksums : Obligations.EveryKeyHasItsNumberOfChecksums := by
  intro k hk
  have hresidue : (k + 94687) % 100000 < 2 ^ 32 % 100000 ↔ 5313 ≤ k ∧ k ≤ 72608 := by omega
  calc (Finset.univ.filter fun c : Word => (foldKey c).toNat = k).card
    _ = (Finset.univ.filter fun c : Word => (foldMask c).toNat ≡ k + 94687 [MOD 100000]).card := by
      simp only [foldKey_eq_iff _ hk]
    _ = Nat.count (· ≡ k + 94687 [MOD 100000]) (2 ^ 32) := card_filter_foldMask (· ≡ k + 94687 [MOD 100000])
    _ = 2 ^ 32 / 100000 + if 5313 ≤ k ∧ k ≤ 72608 then 1 else 0 := by
      rw [Nat.count_modEq_card _ (by decide)]
      simp only [hresidue]
    _ = if 5313 ≤ k ∧ k ≤ 72608 then 42950 else 42949 := by split <;> norm_num

end Sys2Proof.Machine
end

section
/-! PROOFS. Several blocks side by side (spec/20_memory.md R54; spec/60_exceptions.md R170). -/

namespace Sys2Proof.Machine

/-- One block of a system can always step, and only its own entry changes. -/
theorem exists_stepInstance {k : Nat} {sys : List State} (hk : k < sys.length) :
    ∃ s t, sys[k]? = some s ∧ step s = .next t ∧ stepInstance k sys = some (sys.set k t) := by
  obtain ⟨t, ht, _⟩ := everyStepAnswers sys[k]
  have hs : sys[k]? = some sys[k] := List.getElem?_eq_getElem hk
  exact ⟨sys[k], t, hs, ht, stepInstance_of_step k sys _ t hs ht⟩

/-- Settles O51: each of the two steps sets one entry of the list, which the other one neither reads nor writes. -/
theorem instancesAreIndependent : Obligations.InstancesAreIndependent := by
  intro sys i j hi hj hij
  obtain ⟨s, t, hs, hst, hstep⟩ := exists_stepInstance hi
  obtain ⟨s', t', hs', hst', hstep'⟩ := exists_stepInstance hj
  refine ⟨⟨_, hstep, List.length_set, List.getElem?_set_ne hij, s, t, hs, hst, List.getElem?_set_self hi⟩, ?_⟩
  have hij' : stepInstance j (sys.set i t) = some ((sys.set i t).set j t') :=
    stepInstance_of_step j _ s' t' (by rw [List.getElem?_set_ne hij, hs']) hst'
  have hji : stepInstance i (sys.set j t') = some ((sys.set j t').set i t) :=
    stepInstance_of_step i _ s t (by rw [List.getElem?_set_ne hij.symm, hs]) hst
  rw [hstep, hstep', Option.bind_some, Option.bind_some, hij', hji, List.set_comm _ _ hij]

end Sys2Proof.Machine
end

section
/-! PROOFS. The block at its ports (spec/70_reset_and_hazards.md R180, R186, R191 to R193). -/

namespace Sys2Proof.Machine

/-! ## What is on the output ports -/

/-- All that the ports can show: what the phase drives, but for `cmd_ready`; or nothing, in a cycle in which an asynchronous
reset takes effect. -/
theorem portOutIn_cases (p : OpenParameters) (i : PortIn) (s : PortState) :
    (∃ ready, portOutIn p i s = { portOut s with cmdReady := ready }) ∨
      (i.rst = true ∧ p.rstSync = .asynchronous ∧ resetTakesEffect p s = true ∧ portOutIn p i s = quietOut) := by
  cases hrst : i.rst with
  | false => exact .inl ⟨_, portOutIn_of_no_reset p i s hrst⟩
  | true =>
    rcases portOutIn_of_reset p i s hrst with ⟨hsync, heffect, hout⟩ | ⟨_, hout⟩
    · exact .inr ⟨rfl, hsync, heffect, hout⟩
    · exact .inl ⟨_, hout⟩

/-- The ports of a block whose response comes in this cycle: the response, or nothing because of an asynchronous reset. -/
theorem portOutIn_of_delivering {p : OpenParameters} {i : PortIn} {s : PortState} {cw : CommandWord} {b : State}
    {rsp : Response} (hphase : s.phase = .delivering cw) (hissue : issue cw s.block = some (b, rsp)) :
    ((portOutIn p i s).rspValid = true ∧ (portOutIn p i s).rspOk = rsp.ok ∧ (portOutIn p i s).rspVal = rsp.val) ∨
      ((portOutIn p i s).rspValid = false ∧ i.rst = true ∧ p.rstSync = .asynchronous ∧ resetTakesEffect p s = true) := by
  rcases portOutIn_cases p i s with ⟨ready, hout⟩ | ⟨hrst, hsync, heffect, hout⟩
  · rw [hout, portOut_of_delivering s cw b rsp hphase hissue]
    exact .inl ⟨rfl, rfl, rfl⟩
  · rw [hout]
    exact .inr ⟨rfl, hrst, hsync, heffect⟩

theorem cmdReady_of_reset (p : OpenParameters) (i : PortIn) (s : PortState) (h : i.rst = true) :
    (portOutIn p i s).cmdReady = false := by
  rcases portOutIn_of_reset p i s h with ⟨_, _, hout⟩ | ⟨_, hout⟩ <;> rw [hout]
  rfl

/-! ## The delivery of a response -/

/-- The response of a block that delivers enters the record when it is on the ports. -/
theorem deliverPresented_of_valid {p : OpenParameters} {i : PortIn} {s : PortState} {cw : CommandWord} {rsp : Response}
    (hphase : s.phase = .delivering cw) (hissue : issue cw s.block = some (eventNext (.command cw) s.block, rsp))
    (hvalid : (portOutIn p i s).rspValid = true) : deliverPresented p i s =
      { s with block := eventNext (.command cw) s.block, phase := .presenting rsp (p.rspHold - 1) } := by
  simp [deliverPresented, hphase, hissue, hvalid]

theorem deliverPresented_of_not_valid {p : OpenParameters} {i : PortIn} {s : PortState}
    (hvalid : (portOutIn p i s).rspValid = false) : deliverPresented p i s = s := by
  rcases deliverPresented_cases p i s with ⟨_, _, _, _, _, hv, _⟩ | ⟨_, hs⟩
  · rw [hv] at hvalid
    cases hvalid
  · exact hs

theorem deliveryEvents_of_delivering {p : OpenParameters} {i : PortIn} {s : PortState} {cw : CommandWord}
    (hphase : s.phase = .delivering cw) :
    deliveryEvents p i s = if (portOutIn p i s).rspValid then [.command cw] else [] := by
  simp [deliveryEvents, hphase]

theorem deliveryEvents_of_not_delivering {p : OpenParameters} {i : PortIn} {s : PortState}
    (h : ∀ cw, s.phase ≠ .delivering cw) : deliveryEvents p i s = [] := by
  cases hphase : s.phase with
  | delivering cw => exact absurd hphase (h cw)
  | idle | executing cw left | presenting rsp left => simp [deliveryEvents, hphase]

/-- Delivering a response is the command's interaction. -/
theorem deliverPresented_block (p : OpenParameters) (i : PortIn) (s : PortState) :
    (deliverPresented p i s).block = runEvents (deliveryEvents p i s) s.block := by
  by_cases hphase : ∃ cw, s.phase = .delivering cw
  · obtain ⟨cw, hphase⟩ := hphase
    obtain ⟨rsp, hissue, _⟩ := issue_eq cw s.block
    rw [deliveryEvents_of_delivering hphase]
    cases hvalid : (portOutIn p i s).rspValid with
    | true => rw [deliverPresented_of_valid hphase hissue hvalid]; rfl
    | false => rw [deliverPresented_of_not_valid hvalid]; rfl
  · have hnot : ∀ cw, s.phase ≠ .delivering cw := fun cw h => hphase ⟨cw, h⟩
    rw [deliveryEvents_of_not_delivering hnot, deliverPresented_of_not_delivering p i s hnot, runEvents_nil]

@[simp] theorem deliverPresented_rstHeld (p : OpenParameters) (i : PortIn) (s : PortState) :
    (deliverPresented p i s).rstHeld = s.rstHeld := by
  rcases deliverPresented_cases p i s with ⟨_, _, _, _, _, _, hs⟩ | ⟨_, hs⟩ <;> rw [hs]

/-! ## The clock edge -/

/-- A reset that takes effect restores the registers, whatever becomes of the command in hand. -/
theorem eventNext_resetEvent (ph : Phase) (s : State) : eventNext (resetEvent ph) s = resetRegisters s := by
  cases ph <;> rfl

/-- The block after an edge is the block after the interactions that the edge completes. -/
theorem clockEdge_block (p : OpenParameters) (i : PortIn) (s : PortState) :
    (clockEdge p i s).block = runEvents (edgeEvents p i s) s.block := by
  rw [edgeEvents, runEvents_append, ← deliverPresented_block]
  cases hrst : i.rst with
  | false => rw [clockEdge_of_no_reset p i s hrst, runEdge_block]; rfl
  | true =>
    rw [clockEdge_of_reset p i s hrst]
    rcases resetEdge_cases p (deliverPresented p i s) with ⟨heffect, hedge⟩ | ⟨heffect, hedge⟩ <;>
      rw [resetTakesEffect_deliverPresented] at heffect <;> rw [hedge, heffect]
    · exact (eventNext_resetEvent _ _).symm
    · rfl

/-- An edge adds to the record what is delivered at it: reset and waiting answer nothing. -/
theorem clockEdge_responses (p : OpenParameters) (i : PortIn) (s : PortState) :
    (clockEdge p i s).block.responses = (deliverPresented p i s).block.responses := by
  cases hrst : i.rst with
  | false => rw [clockEdge_of_no_reset p i s hrst, runEdge_block]
  | true =>
    rw [clockEdge_of_reset p i s hrst]
    rcases resetEdge_cases p (deliverPresented p i s) with ⟨_, hedge⟩ | ⟨_, hedge⟩ <;> rw [hedge]
    rfl

theorem clockRun_block (p : OpenParameters) (is : List PortIn) (s : PortState) :
    (clockRun p is s).block = runEvents (portEvents p is s) s.block := by
  induction is generalizing s with
  | nil => rfl
  | cons i is ih => rw [clockRun_cons, ih, clockEdge_block, portEvents, runEvents_append]

/-- Settles O52: both sides are `runEvents` over the interactions of the edges. -/
theorem portsRefineTheCommands : Obligations.PortsRefineTheCommands := by
  intro p is s hin
  have hblock : { s.block with input := [] } = s.block := by rw [← hin]
  rw [runAll_of_input, hblock, clockRun_block]

/-- Settles O54: the three cases of the delivery, with `portOutIn_of_delivering` for what is on the ports. -/
theorem responseIsDeliveredWhenItIsOnThePorts : Obligations.ResponseIsDeliveredWhenItIsOnThePorts := by
  intro p i s
  refine ⟨fun cw hphase hvalid => ?_, fun cw hphase hvalid => ?_, fun hnot => ?_⟩
  · obtain ⟨rsp, hissue, hrsp⟩ := issue_eq cw s.block
    have hdeliver := deliverPresented_of_valid hphase hissue hvalid
    rcases portOutIn_of_delivering (p := p) (i := i) hphase hissue with ⟨_, hok, hval⟩ | ⟨hquiet, _⟩
    · refine ⟨by rw [clockEdge_responses, hdeliver, hok, hval]; exact hrsp, ?_⟩
      rw [edgeEvents, deliveryEvents_of_delivering hphase, hvalid, hdeliver]
      simp [resetEvent]
    · rw [hvalid] at hquiet
      cases hquiet
  · obtain ⟨rsp, hissue, _⟩ := issue_eq cw s.block
    have hdeliver := deliverPresented_of_not_valid hvalid
    rcases portOutIn_of_delivering (p := p) (i := i) hphase hissue with ⟨hshown, _⟩ | ⟨_, hrst, hsync, heffect⟩
    · rw [hvalid] at hshown
      cases hshown
    · have hedge : clockEdge p i s = ⟨resetRegisters s.block, .idle, s.rstHeld + 1, s.rstSeen + 1⟩ := by
        rw [clockEdge_of_reset p i s hrst, hdeliver, resetEdge, if_pos heffect]
      rw [hedge]
      refine ⟨hrst, hsync, heffect, ⟨rfl, rfl, rfl⟩, rfl, rfl, ?_⟩
      simp [edgeEvents, deliveryEvents_of_delivering hphase, hvalid, hdeliver, hrst, heffect, hphase, resetEvent]
  · rw [clockEdge_responses, deliverPresented_of_not_delivering p i s hnot]

/-! ## Words offered while the block is not ready -/

theorem deliverPresented_congr (p : OpenParameters) {i j : PortIn} (s : PortState) (h : i.rst = j.rst) :
    deliverPresented p i s = deliverPresented p j s := by
  rw [deliverPresented, deliverPresented, portOutIn_congr p i j s h]

theorem phaseEdge_of_not_idle (p : OpenParameters) (i j : PortIn) {ph : Phase} (h : ph ≠ .idle) :
    phaseEdge p i ph = phaseEdge p j ph := by
  cases ph with
  | idle => exact absurd rfl h
  | executing cw left | delivering cw => rfl
  | presenting rsp left => cases left <;> rfl

theorem deliverPresented_phase_ne_idle {p : OpenParameters} {i : PortIn} {s : PortState} (h : s.phase ≠ .idle) :
    (deliverPresented p i s).phase ≠ .idle := by
  rcases deliverPresented_cases p i s with ⟨_, _, _, _, _, _, hs⟩ | ⟨_, hs⟩ <;> rw [hs]
  · exact nofun
  · exact h

/-- Settles O55: the edge of reset looks at no other input, and without reset a block that is not ready is not idle. -/
theorem wordsOfferedWhileNotReadyAreIgnored : Obligations.WordsOfferedWhileNotReadyAreIgnored := by
  intro p s i j hready hij
  cases hrst : i.rst with
  | true =>
    rw [clockEdge_of_reset p i s hrst, clockEdge_of_reset p j s (hij ▸ hrst), deliverPresented_congr p s hij]
  | false =>
    have hbusy : s.phase ≠ .idle := fun hidle => by
      simp [portOutIn_of_no_reset p i s hrst, portOut, hidle] at hready
    rw [clockEdge_of_no_reset p i s hrst, clockEdge_of_no_reset p j s (hij ▸ hrst), deliverPresented_congr p s hij,
      runEdge, runEdge, phaseEdge_of_not_idle p i j (deliverPresented_phase_ne_idle hbusy)]

end Sys2Proof.Machine
end

section
/-! PROOFS. The port-level block over several clock cycles: the latency of a response, its hold, and a reset that is held
(spec/70_reset_and_hazards.md R180, R191, R192). -/

namespace Sys2Proof.Machine

@[simp] theorem clockRun_append (p : OpenParameters) (is js : List PortIn) (s : PortState) :
    clockRun p (is ++ js) s = clockRun p js (clockRun p is s) := by
  induction is generalizing s with
  | nil => rfl
  | cons i is ih => exact ih (clockEdge p i s)

/-! ## Latency and hold, without reset -/

section
variable (p : OpenParameters) (i : PortIn) (b : State) (held seen : Nat)

@[simp] theorem deliverPresented_idle : deliverPresented p i ⟨b, .idle, held, seen⟩ = ⟨b, .idle, held, seen⟩ := rfl

@[simp] theorem deliverPresented_executing (cw : CommandWord) (n : Nat) :
    deliverPresented p i ⟨b, .executing cw n, held, seen⟩ = ⟨b, .executing cw n, held, seen⟩ := rfl

@[simp] theorem deliverPresented_presenting (rsp : Response) (n : Nat) :
    deliverPresented p i ⟨b, .presenting rsp n, held, seen⟩ = ⟨b, .presenting rsp n, held, seen⟩ := rfl

end

section
variable {p : OpenParameters} {i : PortIn} (hi : i.rst = false)
include hi

theorem clockEdge_of_accepting (hvalid : i.cmdValid = true) (b : State) (held seen : Nat) :
    clockEdge p i ⟨b, .idle, held, seen⟩ = ⟨b, countDown i.cmd (latency p i.cmd - 1), 0, seen⟩ := by
  rw [clockEdge_of_no_reset p i _ hi, deliverPresented_idle, runEdge, phaseEdge_idle, if_pos hvalid]

theorem clockEdge_of_countDown_succ (cw : CommandWord) (n : Nat) (b : State) (held seen : Nat) :
    clockEdge p i ⟨b, countDown cw (n + 1), held, seen⟩ = ⟨b, countDown cw n, 0, seen⟩ := by
  rw [clockEdge_of_no_reset p i _ hi, countDown_succ, deliverPresented_executing, runEdge, phaseEdge_executing]

theorem clockEdge_of_presenting_succ (rsp : Response) (n : Nat) (b : State) (held seen : Nat) :
    clockEdge p i ⟨b, .presenting rsp (n + 1), held, seen⟩ = ⟨b, .presenting rsp n, 0, seen⟩ := by
  rw [clockEdge_of_no_reset p i _ hi, deliverPresented_presenting, runEdge, phaseEdge_presenting_succ]

theorem clockEdge_of_presenting_zero (rsp : Response) (b : State) (held seen : Nat) :
    clockEdge p i ⟨b, .presenting rsp 0, held, seen⟩ = ⟨b, .idle, 0, seen⟩ := by
  rw [clockEdge_of_no_reset p i _ hi, deliverPresented_presenting, runEdge, phaseEdge_presenting_zero]

/-- The edge that delivers a response goes on as if the response had been up for a cycle already. -/
theorem clockEdge_of_delivering {cw : CommandWord} {b t : State} {rsp : Response} (hissue : issue cw b = some (t, rsp))
    (held seen : Nat) : clockEdge p i ⟨b, .delivering cw, held, seen⟩ =
      clockEdge p i ⟨t, .presenting rsp (p.rspHold - 1), held, seen⟩ := by
  have hdeliver : deliverPresented p i ⟨b, .delivering cw, held, seen⟩ =
      ⟨t, .presenting rsp (p.rspHold - 1), held, seen⟩ := by
    simp [deliverPresented, hissue, portOutIn_of_no_reset p i _ hi, portOut, responseOut]
  rw [clockEdge_of_no_reset p i _ hi, clockEdge_of_no_reset p i _ hi, hdeliver,
    deliverPresented_presenting]

end

theorem clockRun_countDown {p : OpenParameters} {is : List PortIn} (his : ∀ i ∈ is, i.rst = false) (cw : CommandWord)
    (n : Nat) (b : State) (seen : Nat) :
    clockRun p is ⟨b, countDown cw (is.length + n), 0, seen⟩ = ⟨b, countDown cw n, 0, seen⟩ := by
  induction is with
  | nil => rw [List.length_nil, Nat.zero_add, clockRun_nil]
  | cons i is ih =>
    rw [List.forall_mem_cons] at his
    rw [List.length_cons, Nat.add_right_comm, clockRun_cons, clockEdge_of_countDown_succ his.1, ih his.2]

theorem clockRun_presenting {p : OpenParameters} {is : List PortIn} (his : ∀ i ∈ is, i.rst = false) (rsp : Response)
    (n : Nat) (t : State) (seen : Nat) :
    clockRun p is ⟨t, .presenting rsp (is.length + n), 0, seen⟩ = ⟨t, .presenting rsp n, 0, seen⟩ := by
  induction is with
  | nil => rw [List.length_nil, Nat.zero_add, clockRun_nil]
  | cons i is ih =>
    rw [List.forall_mem_cons] at his
    rw [List.length_cons, Nat.add_right_comm, clockRun_cons, clockEdge_of_presenting_succ his.1, ih his.2]

/-- After the last cycle of its hold a response goes, and the block is ready. -/
theorem clockRun_presenting_to_idle {p : OpenParameters} {is : List PortIn} (his : ∀ i ∈ is, i.rst = false)
    (rsp : Response) {n : Nat} (hlen : is.length = n + 1) (t : State) (seen : Nat) :
    clockRun p is ⟨t, .presenting rsp n, 0, seen⟩ = ⟨t, .idle, 0, seen⟩ := by
  induction is generalizing n with
  | nil => cases hlen
  | cons i is ih =>
    rw [List.forall_mem_cons] at his
    obtain rfl : is.length = n := Nat.succ.inj hlen
    cases is with
    | nil => rw [List.length_nil, clockRun_cons, clockRun_nil, clockEdge_of_presenting_zero his.1]
    | cons j js => rw [List.length_cons, clockRun_cons, clockEdge_of_presenting_succ his.1, ih his.2 rfl]

theorem clockRun_of_delivering {p : OpenParameters} {is : List PortIn} (his : ∀ i ∈ is, i.rst = false)
    (hne : 1 ≤ is.length) {cw : CommandWord} {b t : State} {rsp : Response} (hissue : issue cw b = some (t, rsp))
    (seen : Nat) : clockRun p is ⟨b, .delivering cw, 0, seen⟩ =
      clockRun p is ⟨t, .presenting rsp (p.rspHold - 1), 0, seen⟩ := by
  cases is with
  | nil => cases hne
  | cons i is => rw [clockRun_cons, clockEdge_of_delivering (List.forall_mem_cons.1 his).1 hissue, clockRun_cons]

/-- In its hold a response stays on the ports, and the block is as the command left it. -/
theorem clockRun_in_hold {p : OpenParameters} {is : List PortIn} (his : ∀ i ∈ is, i.rst = false)
    (hpos : 1 ≤ is.length) (hlt : is.length < p.rspHold) {cw : CommandWord} {b t : State} {rsp : Response}
    (hissue : issue cw b = some (t, rsp)) (seen : Nat) : clockRun p is ⟨b, .delivering cw, 0, seen⟩ =
      ⟨t, .presenting rsp (p.rspHold - 1 - is.length), 0, seen⟩ := by
  have hleft : p.rspHold - 1 = is.length + (p.rspHold - 1 - is.length) := by omega
  rw [clockRun_of_delivering his hpos hissue, hleft, clockRun_presenting his, Nat.add_sub_cancel_left]

theorem clockRun_after_hold {p : OpenParameters} {is : List PortIn} (his : ∀ i ∈ is, i.rst = false)
    (hpos : 1 ≤ is.length) (hlen : is.length = p.rspHold) {cw : CommandWord} {b t : State} {rsp : Response}
    (hissue : issue cw b = some (t, rsp)) (seen : Nat) :
    clockRun p is ⟨b, .delivering cw, 0, seen⟩ = ⟨t, .idle, 0, seen⟩ := by
  rw [clockRun_of_delivering his hpos hissue, clockRun_presenting_to_idle his rsp (by omega)]

/-- A word accepted by an idle block has `others.length + 1` clocks behind it. -/
theorem clockRun_of_accepting {p : OpenParameters} {first : PortIn} {others : List PortIn} (hfirst : first.rst = false)
    (hvalid : first.cmdValid = true) (hothers : ∀ i ∈ others, i.rst = false) {n : Nat}
    (hn : latency p first.cmd = others.length + 1 + n) (b : State) (held seen : Nat) :
    clockRun p (first :: others) ⟨b, .idle, held, seen⟩ = ⟨b, countDown first.cmd n, 0, seen⟩ := by
  have hleft : latency p first.cmd - 1 = others.length + n := by omega
  rw [clockRun_cons, clockEdge_of_accepting hfirst hvalid, hleft, clockRun_countDown hothers]

/-- Settles O53: the count down to the response, and its hold; both runs end in a known phase. -/
theorem responseComesAfterTheLatency : Obligations.ResponseComesAfterTheLatency := by
  intro p b held seen first next others hold hp hfirst hvalid hothers hhold hnext
  obtain ⟨_, _, _, _, _, _, hholdPos, _⟩ := hp
  refine ⟨fun hearly => ?_, fun htime => ?_⟩
  · obtain ⟨n, hn⟩ := Nat.exists_eq_add_of_lt hearly
    rw [clockRun_of_accepting hfirst hvalid hothers (by omega : _ = others.length + 1 + (n + 1)),
      portOutIn_of_no_reset p next _ hnext]
    exact ⟨rfl, rfl⟩
  · obtain ⟨rsp, hissue, _⟩ := issue_eq first.cmd b
    have hrun := clockRun_of_accepting (n := 0) hfirst hvalid hothers htime.symm b held seen
    rw [countDown_zero] at hrun
    refine ⟨_, rsp, hissue, hrun, ?_⟩
    rw [clockRun_append, hrun, portOutIn_of_no_reset p next _ hnext]
    refine ⟨fun hlt => ?_, fun hpos hlt => by rw [clockRun_in_hold hhold hpos hlt hissue], fun hend => ?_⟩
    · rcases Nat.eq_zero_or_pos hold.length with hzero | hpos
      · rw [List.length_eq_zero_iff.1 hzero, clockRun_nil, portOut_of_delivering _ _ _ rsp rfl hissue]
        rfl
      · rw [clockRun_in_hold hhold hpos hlt hissue]
        rfl
    · rw [clockRun_after_hold hhold (by omega) hend hissue]
      exact ⟨rfl, rfl⟩

/-! ## A reset that is held -/

/-- A level on the pin that its polarity reads as reset. -/
theorem readPins_rst_of_asserted {p : OpenParameters} {x : InputPins} (h : x.rst = (p.rstPolarity == .activeHigh)) :
    (readPins p x).rst = true := by
  rw [readPins, h]
  cases p.rstPolarity <;> rfl

theorem readPins_rst_of_released {p : OpenParameters} {x : InputPins} (h : x.rst = (p.rstPolarity == .activeLow)) :
    (readPins p x).rst = false := by
  rw [readPins, h]
  cases p.rstPolarity <;> rfl

theorem clockEdge_rstHeld (p : OpenParameters) {i : PortIn} (s : PortState) (hi : i.rst = true) :
    (clockEdge p i s).rstHeld = s.rstHeld + 1 := by
  rw [clockEdge_of_reset p i s hi]
  rcases resetEdge_cases p (deliverPresented p i s) with ⟨_, hedge⟩ | ⟨_, hedge⟩ <;>
    rw [hedge] <;> simp

/-- Only a reset that takes effect can keep a response off the ports in the cycle in which it comes. -/
theorem deliverPresented_phase_ne_delivering {p : OpenParameters} {s : PortState} (h : resetTakesEffect p s = false)
    (i : PortIn) (cw : CommandWord) : (deliverPresented p i s).phase ≠ .delivering cw := by
  by_cases hphase : ∃ cw', s.phase = .delivering cw'
  · obtain ⟨cw', hphase⟩ := hphase
    obtain ⟨rsp, hissue, _⟩ := issue_eq cw' s.block
    rcases portOutIn_of_delivering (p := p) (i := i) hphase hissue with ⟨hvalid, _⟩ | ⟨_, _, _, heffect⟩
    · rw [deliverPresented_of_valid hphase hissue hvalid]
      exact nofun
    · rw [h] at heffect
      cases heffect
  · rw [deliverPresented_of_not_delivering p i s fun cw' h' => hphase ⟨cw', h'⟩]
    exact fun h' => hphase ⟨cw, h'⟩

/-- After a cycle of reset no response is still to be delivered: it was on the ports, or the reset has taken effect. -/
theorem clockEdge_phase_ne_delivering (p : OpenParameters) {i : PortIn} (s : PortState) (hi : i.rst = true)
    (cw : CommandWord) : (clockEdge p i s).phase ≠ .delivering cw := by
  rw [clockEdge_of_reset p i s hi]
  rcases resetEdge_cases p (deliverPresented p i s) with ⟨_, hedge⟩ | ⟨hno, hedge⟩ <;> rw [hedge]
  · exact nofun
  · rw [resetTakesEffect_deliverPresented] at hno
    exact deliverPresented_phase_ne_delivering hno i cw

theorem clockEdge_of_held_reset {p : OpenParameters} {i : PortIn} {s : PortState} (hi : i.rst = true)
    (hheld : p.rstMinCycles ≤ s.rstHeld + 1) :
    SameRegisters (clockEdge p i s).block State.reset ∧ (clockEdge p i s).phase = .idle := by
  have heffect : resetTakesEffect p (deliverPresented p i s) = true := by
    rw [resetTakesEffect_deliverPresented, resetTakesEffect_of_held p s hheld]
  rw [clockEdge_of_reset p i s hi, resetEdge, if_pos heffect]
  exact ⟨⟨rfl, rfl, rfl⟩, rfl⟩

/-- Each cycle of reset counts, so the last of enough of them resets the block. -/
theorem clockRun_of_held_reset {p : OpenParameters} {i : PortIn} {is : List PortIn} {s : PortState}
    (hi : i.rst = true) (his : ∀ j ∈ is, j.rst = true) (hheld : p.rstMinCycles ≤ s.rstHeld + is.length + 1) :
    SameRegisters (clockRun p (i :: is) s).block State.reset ∧ (clockRun p (i :: is) s).phase = .idle := by
  induction is generalizing i s with
  | nil => exact clockEdge_of_held_reset hi hheld
  | cons j js ih =>
    rw [List.forall_mem_cons] at his
    rw [clockRun_cons]
    refine ih his.1 his.2 ?_
    rw [clockEdge_rstHeld p s hi]
    rw [List.length_cons] at hheld
    omega

/-- Cycles of reset deliver nothing when no response comes in the first of them. -/
theorem clockRun_responses_of_reset {p : OpenParameters} {is : List PortIn} {s : PortState}
    (his : ∀ i ∈ is, i.rst = true) (hs : ∀ cw, s.phase ≠ .delivering cw) :
    (clockRun p is s).block.responses = s.block.responses := by
  induction is generalizing s with
  | nil => rfl
  | cons i is ih =>
    rw [List.forall_mem_cons] at his
    rw [clockRun_cons, ih his.2 (clockEdge_phase_ne_delivering p s his.1), clockEdge_responses,
      deliverPresented_of_not_delivering p i s hs]

/-- Settles O56: the pins read as reset throughout, `clockRun_of_held_reset` for the registers and the phase, and
`clockRun_responses_of_reset` from the second cycle on. -/
theorem heldResetResetsTheBlock : Obligations.HeldResetResetsTheBlock := by
  intro p s x xs next hmin hasserted hreleased
  have hread : ∀ i ∈ (x :: xs).map (readPins p), i.rst = true := fun i hi => by
    obtain ⟨y, hy, rfl⟩ := List.mem_map.1 hi
    exact readPins_rst_of_asserted (hasserted y hy)
  rw [pinRun]
  rw [List.map_cons] at hread ⊢
  obtain ⟨hx, hxs⟩ := List.forall_mem_cons.1 hread
  have hheld : p.rstMinCycles ≤ s.rstHeld + (xs.map (readPins p)).length + 1 := by
    rw [List.length_map]
    omega
  obtain ⟨hregs, hidle⟩ := clockRun_of_held_reset hx hxs hheld
  refine ⟨fun y hy u => cmdReady_of_reset p _ u (readPins_rst_of_asserted (hasserted y hy)), hregs, hidle,
    clockRun_responses_of_reset hxs (clockEdge_phase_ne_delivering p s hx), clockRun_responses_of_reset hread, ?_⟩
  rw [portOutIn_of_no_reset p _ _ (readPins_rst_of_released hreleased), portOut, hidle]
  rfl

end Sys2Proof.Machine
end

section
/-! PROOFS. The command sequences of the host and the derivation of a key (spec/42_host_sequences.md; spec/30_encoding.md
R70; spec/10_state.md R36). -/

namespace Sys2Proof.Machine

/-! ## Sending a message (R127, R128) -/

/-- The response to `INIT`, to each byte and to `FOLD`. -/
def doneResponse : Response :=
  ⟨true, 0#32⟩

/-- The words that start a message and send its bytes. -/
def messageWords (m : List Byte) : List CommandWord :=
  encode .init :: m.map fun b => encode (.byte b)

/-- The state after `INIT` and the bytes of a message; it is where the message's words lead (`runEvents_messageWords`). -/
def afterMessage (m : List Byte) (s : State) : State :=
  { s with r := crcreg m, responses := s.responses ++ List.replicate (m.length + 1) doneResponse }

theorem runEvents_bytes (m : List Byte) (s : State) :
    runEvents ((m.map fun b => encode (.byte b)).map .command) s =
      { s with r := absorbAll s.r m, responses := s.responses ++ List.replicate m.length doneResponse } := by
  induction m generalizing s with
  | nil => simp
  | cons b m ih =>
    rw [List.map_cons, List.map_cons, runEvents_cons, eventNext_encode, ih, execNext_byte]
    exact state_eq_of_fields _ _ rfl rfl rfl rfl (by simp [doneResponse, List.replicate_succ])

theorem runEvents_messageWords (m : List Byte) (s : State) :
    runEvents ((messageWords m).map .command) s = afterMessage m s := by
  rw [messageWords, List.map_cons, runEvents_cons, eventNext_encode, runEvents_bytes, execNext_init]
  exact state_eq_of_fields _ _ rfl rfl rfl rfl (by simp [afterMessage, doneResponse, List.replicate_succ])

theorem issueBytes_eq (m : List Byte) (s : State) :
    issueBytes m s = some (runEvents ((m.map fun b => encode (.byte b)).map .command) s) := by
  induction m generalizing s with
  | nil => rfl
  | cons b m ih =>
    obtain ⟨rsp, hissue, _⟩ := issue_eq (encode (.byte b)) s
    rw [issueBytes, hissue, Option.bind_some, ih, List.map_cons, List.map_cons, runEvents_cons]

/-- Both sequences of the host begin alike. -/
theorem issue_init_then_bytes {α : Type} (m : List Byte) (s : State) (rest : State → Option α) :
    ((issue 0x100#12 s).bind fun x => (issueBytes m x.1).bind rest) = rest (afterMessage m s) := by
  obtain ⟨rsp, hissue, _⟩ := issue_eq 0x100#12 s
  rw [hissue, Option.bind_some, issueBytes_eq, Option.bind_some, ← runEvents_messageWords]
  rfl

theorem issue_rdcrc (s : State) : issue 0x400#12 s =
    some (respond (checksumOut Config.hardware s.r) s, ⟨true, checksumOut Config.hardware s.r⟩) :=
  issue_of_responses (eventNext_encode .rdcrc s) rfl

theorem hostCrc32_eq (m : List Byte) (s : State) : hostCrc32 m s =
    some (respond (crc32 Config.hardware m) (afterMessage m s), crc32 Config.hardware m) := by
  rw [hostCrc32, issue_init_then_bytes, issue_rdcrc]
  rfl

/-- Settles O42: the procedure by `hostCrc32_eq`, and the run by its words. -/
theorem checksumSequenceGivesTheChecksum : Obligations.ChecksumSequenceGivesTheChecksum := by
  refine ⟨fun m s => ⟨_, hostCrc32_eq m s, rfl, rfl, rfl, rfl⟩, fun m s => ?_⟩
  have hwords : ((Instr.init :: expandMsgx m ++ [Instr.rdcrc]).map fun i => HostEvent.command (encode i)) =
      (messageWords m).map .command ++ [.command (encode .rdcrc)] := by
    simp [messageWords, expandMsgx, Function.comp_def]
  refine ⟨_, runAll_of_input _ s, ?_⟩
  rw [hwords, runEvents_append, runEvents_messageWords, runEvents_cons, runEvents_nil, eventNext_encode, execNext_rdcrc]
  rfl

/-! ## The key of a message (R127) -/

/-- The key of a message (R85, R100). -/
def messageKey (m : List Byte) : KeyWord :=
  foldKey (crc32 Config.hardware m)

/-- The state after `FOLD` at the end of a message. -/
def afterFold (m : List Byte) (s : State) : State :=
  respond 0#32 (setKeyValid (writeKey (messageKey m) (afterMessage m s)))

/-- The state after the sequence `MKEY`; it is where its words lead (`runEvents_mkeyWords`). -/
def afterMkey (m : List Byte) (s : State) : State :=
  respond (keyOut (messageKey m)) (afterFold m s)

theorem mkeyWords_eq (m : List Byte) : mkeyWords m = messageWords m ++ [encode .fold, encode .rdkey] := rfl

theorem eventNext_fold_afterMessage (m : List Byte) (s : State) :
    eventNext (.command (encode .fold)) (afterMessage m s) = afterFold m s := by
  rw [eventNext_encode]
  rfl

theorem eventNext_rdkey_afterFold (m : List Byte) (s : State) :
    eventNext (.command (encode .rdkey)) (afterFold m s) = afterMkey m s := by
  rw [eventNext_encode, execNext_rdkey, keyResponse_of_valid rfl]
  rfl

theorem runEvents_mkeyWords (m : List Byte) (s : State) : runEvents ((mkeyWords m).map .command) s = afterMkey m s := by
  rw [mkeyWords_eq, List.map_append, runEvents_append, runEvents_messageWords, List.map_cons, runEvents_cons,
    eventNext_fold_afterMessage, List.map_cons, runEvents_cons, eventNext_rdkey_afterFold]
  rfl

theorem issue_fold_afterMessage (m : List Byte) (s : State) :
    issue 0x300#12 (afterMessage m s) = some (afterFold m s, doneResponse) :=
  issue_of_responses (eventNext_fold_afterMessage m s) rfl

theorem issue_rdkey_afterFold (m : List Byte) (s : State) :
    issue 0x500#12 (afterFold m s) = some (afterMkey m s, ⟨true, keyOut (messageKey m)⟩) :=
  issue_of_responses (eventNext_rdkey_afterFold m s) rfl

theorem hostMkeyBytes_eq (m : List Byte) (s : State) :
    hostMkeyBytes m s = some (afterMkey m s, keyOut (messageKey m)) := by
  rw [hostMkeyBytes, issue_init_then_bytes, issue_fold_afterMessage, Option.bind_some, issue_rdkey_afterFold]
  rfl

theorem afterMkey_responses (m : List Byte) (s : State) : (afterMkey m s).responses =
    s.responses ++ List.replicate (m.length + 2) doneResponse ++ [⟨true, keyOut (messageKey m)⟩] := by
  simp [afterMkey, afterFold, afterMessage, doneResponse, List.replicate_succ' (n := m.length + 1)]

/-- Settles O43: `hostMkeyBytes_eq`, and the fields of the state it ends in. -/
theorem keySequenceGivesTheKey : Obligations.KeySequenceGivesTheKey :=
  fun m s => ⟨_, hostMkeyBytes_eq m s, rfl, rfl, rfl, rfl, afterMkey_responses m s⟩

theorem hostMkey_eq {text : List Char} {m : List Byte} (h : asciiBytes text = some m) (s : State) :
    hostMkey text s = some (afterMkey m s, keyOut (messageKey m)) := by
  rw [hostMkey, h, Option.bind_some, hostMkeyBytes_eq]

/-! ## A line `MKEY` of a listing (spec/30_encoding.md R70) -/

theorem assembleListing_mkey {date serial : List Char} {ws : List CommandWord}
    (h : assembleListing [.mkey date serial] = some ws) :
    ∃ m, asciiBytes (keyMessage date serial) = some m ∧ ws = mkeyWords m := by
  cases hm : asciiBytes (keyMessage date serial) with
  | none =>
    rw [keyMessage] at hm
    simp [assembleListing, expandLine, expandMsg, hm] at h
  | some m =>
    refine ⟨m, rfl, ?_⟩
    rw [keyMessage] at hm
    simpa [assembleListing, expandLine, expandMsg, hm, expandMsgx, mkeyWords_eq, messageWords, Function.comp_def]
      using h.symm

/-- Settles O48: the line's words are those of the host's sequence. -/
theorem mkeyLineIsTheKeySequence : Obligations.MkeyLineIsTheKeySequence := by
  intro date serial ws s h
  obtain ⟨m, hm, rfl⟩ := assembleListing_mkey h
  exact ⟨_, _, hostMkey_eq hm _, by rw [runAll_of_input, runEvents_mkeyWords]⟩

/-! ## Digits and their bytes (R121, R122, R126) -/

theorem digitAlphabet_eq : digitAlphabet = (List.range 10).map fun n => Char.ofNat (0x30 + n) := rfl

/-- The digits are the characters with the ten codes from `0x30` on. -/
theorem mem_digitAlphabet (c : Char) : c ∈ digitAlphabet ↔ 0x30 ≤ c.toNat ∧ c.toNat ≤ 0x39 := by
  rw [digitAlphabet_eq, List.mem_map]
  constructor
  · rintro ⟨n, hn, rfl⟩
    have hcode : ∀ n ∈ List.range 10, (Char.ofNat (0x30 + n)).toNat = 0x30 + n := by decide
    have hlt : n < 10 := List.mem_range.1 hn
    rw [hcode n hn]
    omega
  · rintro ⟨hlow, hhigh⟩
    refine ⟨c.toNat - 0x30, List.mem_range.2 (by omega), ?_⟩
    rw [Nat.add_sub_cancel' hlow, Char.ofNat_toNat]

theorem allDigits_iff (text : List Char) : allDigits text = true ↔ ∀ c ∈ text, 0x30 ≤ c.toNat ∧ c.toNat ≤ 0x39 := by
  simp only [allDigits, List.all_eq_true, List.contains_iff_mem, mem_digitAlphabet]

theorem validSerial_iff (serial : List Char) : validSerial serial = true ↔
    serial.length = 8 ∧ ∀ c ∈ serial, 0x30 ≤ c.toNat ∧ c.toNat ≤ 0x39 := by
  rw [validSerial, Bool.and_eq_true, beq_iff_eq, allDigits_iff, serialLen]

theorem validDate_iff (date : List Char) : validDate date = true ↔
    date.length = 4 ∧ ∀ c ∈ date, 0x30 ≤ c.toNat ∧ c.toNat ≤ 0x39 := by
  rw [validDate, Bool.and_eq_true, beq_iff_eq, allDigits_iff, dateLen]

/-- Settles O46: the two characterisations, and dates without a range check and with any cut. -/
theorem validationIsLengthAndAlphabet : Obligations.ValidationIsLengthAndAlphabet :=
  ⟨validSerial_iff, validDate_iff, by decide, by decide, by decide, by decide⟩

/-- Digits have bytes, one each, which are the codes of digits. -/
theorem asciiBytes_of_digits {text : List Char} (h : ∀ c ∈ text, 0x30 ≤ c.toNat ∧ c.toNat ≤ 0x39) :
    ∃ m, asciiBytes text = some m ∧ m.length = text.length ∧ ∀ b ∈ m, 0x30#8 ≤ b ∧ b ≤ 0x39#8 := by
  induction text with
  | nil => exact ⟨[], rfl, rfl, nofun⟩
  | cons c cs ih =>
    obtain ⟨⟨hlow, hhigh⟩, hcs⟩ := List.forall_mem_cons.1 h
    obtain ⟨m, hm, hlen, hdigits⟩ := ih hcs
    have hc : asciiByte c = some (BitVec.ofNat 8 c.toNat) := (asciiByte_eq_some c _).2 ⟨by omega, rfl⟩
    have hval : (BitVec.ofNat 8 c.toNat).toNat = c.toNat := Nat.mod_eq_of_lt (by omega)
    refine ⟨_, asciiBytes_cons c cs _ m hc hm, by rw [List.length_cons, hlen, List.length_cons],
      List.forall_mem_cons.2 ⟨⟨?_, ?_⟩, hdigits⟩⟩
    · rwa [BitVec.le_def, hval]
    · rwa [BitVec.le_def, hval]

/-- The message of a valid serial number and date is eight digits. -/
theorem asciiBytes_keyMessage {date serial : List Char} (hserial : validSerial serial = true)
    (hdate : validDate date = true) : ∃ m, asciiBytes (keyMessage date serial) = some m ∧ m.length = 8 ∧
      ∀ b ∈ m, 0x30#8 ≤ b ∧ b ≤ 0x39#8 := by
  obtain ⟨hserialLen, hserialDigits⟩ := (validSerial_iff serial).1 hserial
  obtain ⟨hdateLen, hdateDigits⟩ := (validDate_iff date).1 hdate
  have hdigits : ∀ c ∈ keyMessage date serial, 0x30 ≤ c.toNat ∧ c.toNat ≤ 0x39 := fun c hc => by
    rcases List.mem_append.1 hc with hc | hc
    · exact hdateDigits c hc
    · exact hserialDigits c (List.mem_of_mem_drop (List.mem_of_mem_take hc))
  obtain ⟨m, hm, hlen, hbytes⟩ := asciiBytes_of_digits hdigits
  exact ⟨m, hm, by simp [hlen, keyMessage, serialTail, hdateLen, hserialLen], hbytes⟩

/-! ## `DERIVE` (R120, R124, R130) -/

theorem deriveMasterKey_of_valid {serial month day : List Char} (hserial : validSerial serial = true)
    (hdate : validDate (month ++ day) = true) {m : List Byte} (hm : asciiBytes (keyMessage (month ++ day) serial) = some m)
    (s : State) : deriveMasterKey serial month day s = some (afterMkey m s, .key (keyOut (messageKey m))) := by
  simp [deriveMasterKey, hserial, hdate, hostMkey_eq hm]

/-- Settles O44: the two rejections, and the eight digits sent as a message. -/
theorem deriveValidatesThenDerives : Obligations.DeriveValidatesThenDerives := by
  intro serial month day s
  refine ⟨fun hserial => deriveMasterKey_of_invalid_serial hserial month day s,
    fun hserial hdate => deriveMasterKey_of_invalid_date hserial hdate s, fun hserial hdate => ?_⟩
  obtain ⟨m, hm, hlen, hdigits⟩ := asciiBytes_keyMessage hserial hdate
  refine ⟨m, _, hm, hlen, hdigits, deriveMasterKey_of_valid hserial hdate hm s, rfl, rfl, rfl, ?_⟩
  simp [afterMkey_responses, hlen]

/-- Settles O45: the two messages are the same characters. -/
theorem keyDependsOnDateAndSerialTailOnly : Obligations.KeyDependsOnDateAndSerialTailOnly := by
  intro serial serial' month day month' day' s s' hserial hserial' hdate hsame htail
  obtain ⟨m, hm, _⟩ := asciiBytes_keyMessage hserial hdate
  have hmessage : keyMessage (month ++ day) serial = keyMessage (month' ++ day') serial' := by
    rw [keyMessage, keyMessage, serialTail, serialTail, hsame, htail]
  refine ⟨_, _, _, deriveMasterKey_of_valid hserial hdate hm s,
    deriveMasterKey_of_valid hserial' (hsame ▸ hdate) (hmessage ▸ hm) s', ?_⟩
  rw [toNat_keyOut]
  exact foldKey_toNat_le _

/-- Settles O49: the three checksums and the two keys by evaluation. -/
theorem complementDecidesTheDocumentsExample : Obligations.ComplementDecidesTheDocumentsExample :=
  ⟨by decide +kernel, by decide +kernel, by decide +kernel, by decide⟩

end Sys2Proof.Machine
end

section
/-! PROOFS. One derivation stage by stage (spec/10_state.md R36). -/

namespace Sys2Proof.Machine

/-! ## Stages -/

theorem runDerivation_of_ended (n : Nat) (result : DeriveResult) (s : State) :
    runDerivation n (.ended result) s = some (.ended result, s) := by
  induction n with
  | zero => rfl
  | succ n ih => rw [runDerivation_succ n _ _ s s (advanceDerivation_of_ended result s), ih]

theorem runDerivation_add (m n : Nat) {d d' : Derivation} {s t : State} (h : runDerivation m d s = some (d', t)) :
    runDerivation (m + n) d s = runDerivation n d' t := by
  induction m generalizing d s with
  | zero =>
    obtain ⟨rfl, rfl⟩ := Prod.mk.inj (Option.some.inj h)
    rw [Nat.zero_add]
  | succ m ih =>
    obtain ⟨⟨d₁, s₁⟩, hfirst, hrest⟩ := Option.bind_eq_some_iff.1 h
    rw [Nat.succ_add, runDerivation_succ _ _ _ _ _ hfirst, ih hrest]

/-- One stage for each word, as long as one word is left; the derivation notes whether `FOLD` was among them. -/
theorem runDerivation_words (ws : List CommandWord) {rest : List CommandWord} (hrest : rest ≠ []) (folded : Bool)
    (s : State) : runDerivation ws.length (.issuing (ws ++ rest) folded) s =
      some (.issuing rest (folded || ws.any fun cw => decode cw == .command .fold), runEvents (ws.map .command) s) := by
  induction ws generalizing folded s with
  | nil => simp [runDerivation]
  | cons cw ws ih =>
    obtain ⟨cw', ws', hnext⟩ := List.exists_cons_of_ne_nil (List.append_ne_nil_of_right_ne_nil ws hrest)
    obtain ⟨rsp, hissue, _⟩ := issue_eq cw s
    rw [List.length_cons, List.cons_append, hnext,
      runDerivation_succ _ _ _ _ _ (advanceDerivation_of_issue cw cw' ws' folded s _ rsp hissue), ← hnext, ih,
      List.any_cons, Bool.or_assoc, List.map_cons, runEvents_cons]

/-- The words of a message keep the stored key: `FOLD` is not among them. -/
theorem decode_messageWords {m : List Byte} {cw : CommandWord} (h : cw ∈ messageWords m) :
    decode cw ≠ .command .fold := by
  rcases List.mem_cons.1 h with rfl | h
  · rw [decode_encode]
    exact nofun
  · obtain ⟨b, _, rfl⟩ := List.mem_map.1 h
    rw [decode_encode]
    exact nofun

theorem any_fold_of_messageWords {m : List Byte} {ws : List CommandWord} (h : ∀ cw ∈ ws, cw ∈ messageWords m) :
    (ws.any fun cw => decode cw == .command .fold) = false :=
  List.any_eq_false.2 fun cw hcw => by simpa using decode_messageWords (h cw hcw)

/-- Up to `FOLD` the derivation is not `Derived` and the stored key stays. -/
theorem runDerivation_before_fold {m : List Byte} {k : Nat} (hk : k ≤ m.length + 1) (s : State) :
    ∃ rest t, runDerivation k (.issuing (mkeyWords m) false) s = some (.issuing rest false, t) ∧
      t.key = s.key ∧ t.kv = s.kv := by
  have hsent : ∀ cw ∈ (messageWords m).take k, cw ∈ messageWords m := fun cw => List.mem_of_mem_take
  have hlen : ((messageWords m).take k).length = k := by simpa [messageWords] using hk
  have hkeep : ∀ e ∈ ((messageWords m).take k).map HostEvent.command, e.keepsKey = true := fun e he => by
    obtain ⟨cw, hcw, rfl⟩ := List.mem_map.1 he
    simpa [HostEvent.keepsKey] using decode_messageWords (hsent cw hcw)
  have hrun := runDerivation_words ((messageWords m).take k)
    (rest := (messageWords m).drop k ++ [encode .fold, encode .rdkey]) (by simp) false s
  rw [hlen, ← List.append_assoc, List.take_append_drop, ← mkeyWords_eq, any_fold_of_messageWords hsent] at hrun
  exact ⟨_, _, hrun, key_of_run_that_keepsKey hkeep s⟩

/-- With its `FOLD` the derivation is `Derived`, and its last word is `RDKEY`. -/
theorem runDerivation_to_fold (m : List Byte) (s : State) :
    runDerivation (m.length + 2) (.issuing (mkeyWords m) false) s =
      some (.issuing [encode .rdkey] true, afterFold m s) := by
  have hrun := runDerivation_words (messageWords m ++ [encode .fold]) (rest := [encode .rdkey]) (by simp) false s
  rw [List.map_append, runEvents_append, runEvents_messageWords, List.map_singleton, runEvents_cons,
    eventNext_fold_afterMessage, runEvents_nil, List.append_assoc, List.singleton_append, ← mkeyWords_eq] at hrun
  simpa [messageWords] using hrun

/-- From its `RDKEY` on the derivation has ended with the key. -/
theorem runDerivation_to_end (m : List Byte) (n : Nat) (s : State) :
    runDerivation (m.length + 3 + n) (.issuing (mkeyWords m) false) s =
      some (.ended (.key (keyOut (messageKey m))), afterMkey m s) := by
  have hlast := advanceDerivation_of_last (encode .rdkey) true _ _ _ (issue_rdkey_afterFold m s)
  rw [show m.length + 3 + n = m.length + 2 + (n + 1) by omega, runDerivation_add _ _ (runDerivation_to_fold m s),
    runDerivation_succ n _ _ _ _ hlast, runDerivation_of_ended]

/-! ## Validation, the first stage -/

theorem runDerivation_of_validated {serial month day : List Char} {d : Derivation}
    (h : validateDerivation serial month day = some d) (n : Nat) (s : State) :
    runDerivation (n + 1) (.held serial month day) s = runDerivation n d s :=
  runDerivation_succ n _ _ s s (by rw [advanceDerivation, h]; rfl)

theorem validateDerivation_of_valid {serial month day : List Char} (hserial : validSerial serial = true)
    (hdate : validDate (month ++ day) = true) {m : List Byte}
    (hm : asciiBytes (keyMessage (month ++ day) serial) = some m) :
    validateDerivation serial month day = some (.issuing (mkeyWords m) false) := by
  simp [validateDerivation, hserial, hdate, hm]

/-- What validation rejects, `DERIVE` rejects with the same error. -/
theorem validateDerivation_of_invalid {serial month day : List Char}
    (h : validSerial serial = false ∨ validDate (month ++ day) = false) (s : State) :
    ∃ result, validateDerivation serial month day = some (.ended result) ∧
      derivationState (.ended result) = .rejected ∧ deriveMasterKey serial month day s = some (s, result) := by
  cases hserial : validSerial serial with
  | false =>
    exact ⟨.invalidSerialNumber, by simp [validateDerivation, hserial], rfl,
      deriveMasterKey_of_invalid_serial hserial month day s⟩
  | true =>
    have hdate : validDate (month ++ day) = false := h.resolve_left (by simp [hserial])
    exact ⟨.invalidDate, by simp [validateDerivation, hserial, hdate], rfl,
      deriveMasterKey_of_invalid_date hserial hdate s⟩

/-! ## The two terminal states -/

/-- A derivation that has executed its `FOLD` stays `Derived`, and one that has ended stays as it is. -/
theorem derivationState_of_advance {d d' : Derivation} {s t : State} (hd : derivationState d ≠ .unvalidated)
    (h : advanceDerivation d s = some (d', t)) : derivationState d' = derivationState d := by
  cases d with
  | held serial month day => exact absurd rfl hd
  | ended result =>
    obtain ⟨rfl, _⟩ := Prod.mk.inj (Option.some.inj h)
    rfl
  | issuing todo folded =>
    cases folded with
    | false => exact absurd rfl hd
    | true =>
      match todo with
      | [] =>
        obtain ⟨rfl, _⟩ := Prod.mk.inj (Option.some.inj h)
        rfl
      | [cw] =>
        obtain ⟨rsp, hissue, _⟩ := issue_eq cw s
        rw [advanceDerivation_of_last cw true s _ rsp hissue] at h
        obtain ⟨rfl, _⟩ := Prod.mk.inj (Option.some.inj h)
        rfl
      | cw :: cw' :: rest =>
        obtain ⟨rsp, hissue, _⟩ := issue_eq cw s
        rw [advanceDerivation_of_issue cw cw' rest true s _ rsp hissue] at h
        obtain ⟨rfl, _⟩ := Prod.mk.inj (Option.some.inj h)
        rfl

/-- The stages of a derivation of eight bytes: before any, up to the last byte, `FOLD`, and from `RDKEY` on. -/
theorem stage_cases {len : Nat} (hlen : len = 8) (n : Nat) :
    n = 0 ∨ (∃ k ≤ len + 1, n = k + 1) ∨ n = len + 2 + 1 ∨ ∃ k, n = len + 3 + k + 1 := by
  cases n with
  | zero => exact .inl rfl
  | succ n =>
    rcases Nat.lt_trichotomy n (len + 2) with hlt | rfl | hgt
    · exact .inr (.inl ⟨n, by omega, rfl⟩)
    · exact .inr (.inr (.inl rfl))
    · exact .inr (.inr (.inr ⟨n - (len + 3), by omega⟩))

/-- Settles O50: the stages before, at and after `FOLD`, the rejection in the first stage, and the terminal states. -/
theorem derivationIsDerivedOnceItsFoldHasExecuted : Obligations.DerivationIsDerivedOnceItsFoldHasExecuted := by
  refine ⟨fun serial month day s n hserial hdate => ?_, fun serial month day s n hinvalid hn => ?_,
    fun d d' s t => derivationState_of_advance⟩
  · obtain ⟨m, hm, hlen, _⟩ := asciiBytes_keyMessage hserial hdate
    have hvalidated := runDerivation_of_validated (validateDerivation_of_valid hserial hdate hm)
    obtain rfl | ⟨k, hk, rfl⟩ | rfl | ⟨k, rfl⟩ := stage_cases hlen n
    · exact ⟨_, s, rfl, fun _ => ⟨rfl, rfl, rfl⟩, fun h => by omega, fun h => by omega⟩
    · obtain ⟨rest, t, hrun, hkey, hkv⟩ := runDerivation_before_fold hk s
      exact ⟨_, t, (hvalidated k s).trans hrun, fun _ => ⟨rfl, hkey, hkv⟩, fun h => by omega, fun h => by omega⟩
    · exact ⟨_, _, (hvalidated _ s).trans (runDerivation_to_fold m s), fun h => by omega,
        fun _ => ⟨rfl, rfl, m, hm, rfl⟩, fun h => by omega⟩
    · exact ⟨_, _, (hvalidated _ s).trans (runDerivation_to_end m k s), fun h => by omega,
        fun _ => ⟨rfl, rfl, m, hm, rfl⟩, fun _ => ⟨_, rfl, deriveMasterKey_of_valid hserial hdate hm s⟩⟩
  · obtain ⟨result, hvalidated, hrejected, hderive⟩ := validateDerivation_of_invalid hinvalid s
    obtain ⟨k, rfl⟩ := Nat.exists_eq_add_of_le' hn
    exact ⟨result, (runDerivation_of_validated hvalidated k s).trans (runDerivation_of_ended k result s), hrejected,
      hderive⟩

end Sys2Proof.Machine
end
